-- ==== Sys2Proof/Word.lean ====
section
/-! DEFINITION. The fixed-width words of the block (10_state.md section 1). Every number in the block is
unsigned (00_scope.md R9) and bit `w - 1` of a word of width `w` is its most significant bit. -/

namespace Sys2Proof

/-- A payload byte `B[k]` (R20). -/
abbrev Byte := BitVec 8

/-- The 16-bit registers `POLY`, `CKC` and the view `CKT` (R34, R35, R21). -/
abbrev Word16 := BitVec 16

/-- The 4-bit channel `CHAN` (R21). -/
abbrev Channel := BitVec 4

/-- The 20-bit device identity `ID` (R21). -/
abbrev Ident := BitVec 20

/-- The 60-bit frame of format FRAME60 read as one number, `f[0]` in bit 59 (R80, R89). -/
abbrev FrameWord := BitVec 60

/-- The 4-bit stage code of format STAGE4 (R95). -/
abbrev StageCode := BitVec 4

end Sys2Proof
end

