-- ==== Sys2Proof/Config.lean ====
section
/-! DEFINITION. What the hardware fixes (the constants of 00_scope.md R6, held in one record as R8 asks) and
the two parameters the spec leaves open (R7). The block has no undefined result, so there is no free value. -/

namespace Sys2Proof

/-- The constants of R6, under the spec's names. -/
structure Config where
  /-- `PRE_LEN`, the preamble's length in bits. -/
  preLen : Nat
  /-- `PRE`, the preamble, first row bit in the most significant bit. -/
  pre : BitVec 12
  /-- `PAY_BITS`, the payload's length in bits. -/
  payBits : Nat
  /-- `PAY_BYTES`, the payload buffer's length in bytes. -/
  payBytes : Nat
  /-- `MIN_BITS`, the least row length accepted. -/
  minBits : Nat
  /-- `REQ_ROWS`, the only row count accepted. -/
  reqRows : Nat
  /-- `CRC_BYTES`, how many payload bytes the checksum covers. -/
  crcBytes : Nat
  /-- `POLY_BASE`, the polynomial of the baseline family. -/
  polyBase : Word16
  /-- `POLY_ALT`, the polynomial of the vendor family. -/
  polyAlt : Word16
  /-- `ALT_CHANNELS`, the channels of the vendor family. -/
  altChannels : List Channel
  /-- `CRC_INIT`, the checksum register before the first byte. -/
  crcInit : Word16
  /-- `CRC_XOROUT`, the value XORed in at the end (0: no final XOR). -/
  crcXorOut : Word16
  /-- `STATE_MASK`, the event byte's open/closed bit. -/
  stateMask : Byte
  /-- `HB_MASK`, the event byte's heartbeat bit. -/
  hbMask : Byte
  /-- `ID_BITS`, the identity's width. -/
  idBits : Nat
  /-- `CHAN_BITS`, the channel's width. -/
  chanBits : Nat
  deriving DecidableEq, Repr

/-- The values of R6, the record's only inhabitant (R8, D23): no rule changes one at run time. -/
def Config.fpl : Config where
  preLen := 12
  pre := 0b111111111110#12
  payBits := 48
  payBytes := 6
  minBits := 60
  reqRows := 1
  crcBytes := 4
  polyBase := 0x8005#16
  polyAlt := 0x8050#16
  altChannels := [0x2#4, 0xA#4]
  crcInit := 0x0000#16
  crcXorOut := 0x0000#16
  stateMask := 0x80#8
  hbMask := 0x04#8
  idBits := 20
  chanBits := 4

/-- The open parameters of R7 (D2, D3): `none` is "unbounded". The machine itself takes both as unbounded
(log entry 1); a statement about one implementation takes its bounds as an argument. -/
structure Params where
  /-- `MAX_ROW_BITS`. -/
  maxRowBits : Option Nat
  /-- `MAX_ROWS`. -/
  maxRows : Option Nat
  deriving DecidableEq, Repr

/-- `ceil(log2(bound + 1))`: the width of a register that counts up to `bound` (R7's `PW` and `RW`). -/
def Params.widthOf (bound : Nat) : Nat := Nat.clog 2 (bound + 1)

end Sys2Proof
end

