-- ==== Sys2Proof/Syntax.lean ====
section
/-! DEFINITION. The operations of the block: one constructor of `Instr` for each row of
spec/opcode_table.json. Twelve are the stages of the hardwired sequencer (30_encoding.md R95), which have no
operand; sixteen are the frame classes (R88), whose operands are the frame's three fields after the channel:
`d` (device identity), `e` (event byte) and `k` (transmitted checksum). -/

namespace Sys2Proof

/-- What the sequencer register `STAGE` can hold: the twelve stages, as an enumeration (R95, R97). -/
inductive Stage where
  /-- IDLE (R130, wait for `start`). -/
  | idle
  /-- SHAPE (R132, exactly one row of at least 60 bits). -/
  | shape
  /-- INVERT (R110, polarity normalisation). -/
  | invert
  /-- SEARCH (R112, first occurrence of the preamble). -/
  | search
  /-- BOUND (R120, a preamble and 48 bits after it). -/
  | bound
  /-- EXTRACT (R122, copy the 48 payload bits). -/
  | extract
  /-- ZCHK (R134, the all-zero filter). -/
  | zchk
  /-- PSEL (R145, polynomial by channel). -/
  | psel
  /-- CRC (R148, the checksum of `B[0..3]`). -/
  | crc
  /-- CMP (R152, transmitted against computed checksum). -/
  | cmp
  /-- EVDEC (R160, decode the event and accept). -/
  | evdec
  /-- DONE (R136, hold the result). -/
  | done
  deriving DecidableEq, Repr

/-- The block is at rest in IDLE and DONE, the two stages in which `start` is sampled (R42). -/
def Stage.atRest : Stage → Bool
  | .idle => true
  | .done => true
  | .shape => false
  | .invert => false
  | .search => false
  | .bound => false
  | .extract => false
  | .zchk => false
  | .psel => false
  | .crc => false
  | .cmp => false
  | .evdec => false

/-- One operation of the block: a stage, or a whole frame of one class. -/
inductive Instr where
  /-- IDLE (R130, wait for `start`). -/
  | idle
  /-- SHAPE (R132, exactly one row of at least 60 bits). -/
  | shape
  /-- INVERT (R110, polarity normalisation). -/
  | invert
  /-- SEARCH (R112, first occurrence of the preamble). -/
  | search
  /-- BOUND (R120, a preamble and 48 bits after it). -/
  | bound
  /-- EXTRACT (R122, copy the 48 payload bits). -/
  | extract
  /-- ZCHK (R134, the all-zero filter). -/
  | zchk
  /-- PSEL (R145, polynomial by channel). -/
  | psel
  /-- CRC (R148, the checksum of `B[0..3]`). -/
  | crc
  /-- CMP (R152, transmitted against computed checksum). -/
  | cmp
  /-- EVDEC (R160, decode the event and accept). -/
  | evdec
  /-- DONE (R136, hold the result). -/
  | done
  /-- FRAME.CH0 (R88, R140): a frame of channel 0x0, baseline family. -/
  | frameCh0 (d : Ident) (e : Byte) (k : Word16)
  /-- FRAME.CH1 (R88, R140): a frame of channel 0x1, baseline family. -/
  | frameCh1 (d : Ident) (e : Byte) (k : Word16)
  /-- FRAME.CH2 (R88, R140): a frame of channel 0x2, vendor family. -/
  | frameCh2 (d : Ident) (e : Byte) (k : Word16)
  /-- FRAME.CH3 (R88, R140): a frame of channel 0x3, baseline family. -/
  | frameCh3 (d : Ident) (e : Byte) (k : Word16)
  /-- FRAME.CH4 (R88, R140): a frame of channel 0x4, baseline family. -/
  | frameCh4 (d : Ident) (e : Byte) (k : Word16)
  /-- FRAME.CH5 (R88, R140): a frame of channel 0x5, baseline family. -/
  | frameCh5 (d : Ident) (e : Byte) (k : Word16)
  /-- FRAME.CH6 (R88, R140): a frame of channel 0x6, baseline family. -/
  | frameCh6 (d : Ident) (e : Byte) (k : Word16)
  /-- FRAME.CH7 (R88, R140): a frame of channel 0x7, baseline family. -/
  | frameCh7 (d : Ident) (e : Byte) (k : Word16)
  /-- FRAME.CH8 (R88, R140): a frame of channel 0x8, baseline family. -/
  | frameCh8 (d : Ident) (e : Byte) (k : Word16)
  /-- FRAME.CH9 (R88, R140): a frame of channel 0x9, baseline family. -/
  | frameCh9 (d : Ident) (e : Byte) (k : Word16)
  /-- FRAME.CHA (R88, R140): a frame of channel 0xA, vendor family. -/
  | frameChA (d : Ident) (e : Byte) (k : Word16)
  /-- FRAME.CHB (R88, R140): a frame of channel 0xB, baseline family. -/
  | frameChB (d : Ident) (e : Byte) (k : Word16)
  /-- FRAME.CHC (R88, R140): a frame of channel 0xC, baseline family. -/
  | frameChC (d : Ident) (e : Byte) (k : Word16)
  /-- FRAME.CHD (R88, R140): a frame of channel 0xD, baseline family. -/
  | frameChD (d : Ident) (e : Byte) (k : Word16)
  /-- FRAME.CHE (R88, R140): a frame of channel 0xE, baseline family. -/
  | frameChE (d : Ident) (e : Byte) (k : Word16)
  /-- FRAME.CHF (R88, R140): a frame of channel 0xF, baseline family. -/
  | frameChF (d : Ident) (e : Byte) (k : Word16)
  deriving DecidableEq, Repr

end Sys2Proof
end

