-- ==== Sys2Proof/Decode.lean ====
section
/-! DEFINITION. The two encodings of 30_encoding.md: STAGE4 (the value of the sequencer register, R95) and
FRAME60 (the 60 normalised bits of a frame, R80, R89). `decode` is total and refuses by name; `encode` is
written from the same tables. -/

namespace Sys2Proof

/-- A word of one of the two formats. They never share a place: a stage code stands in `STAGE`, a frame in the
candidate row, so the format is part of the word. -/
inductive Code where
  /-- A 4-bit stage code. -/
  | stage (c : StageCode)
  /-- A 60-bit frame, `f[0]` in bit 59 (R89). -/
  | frame (f : FrameWord)
  deriving DecidableEq, Repr

/-- Why a word is no operation. -/
inductive DecodeError where
  /-- Stage codes 12 to 15 are reserved (R97). -/
  | reservedStage (c : StageCode)
  /-- The first 12 bits are not the preamble, so the 60 bits are no frame (R99). -/
  | noPreamble (f : FrameWord)
  /-- A string of bits of a length that is neither 4 nor 60 (R102: one length, one format). -/
  | badLength (n : Nat)
  deriving DecidableEq, Repr

/-- The numeric code of a stage (R95). -/
def Stage.code : Stage → StageCode
  | .idle => 0b0000#4
  | .shape => 0b0001#4
  | .invert => 0b0010#4
  | .search => 0b0011#4
  | .bound => 0b0100#4
  | .extract => 0b0101#4
  | .zchk => 0b0110#4
  | .psel => 0b0111#4
  | .crc => 0b1000#4
  | .cmp => 0b1001#4
  | .evdec => 0b1010#4
  | .done => 0b1011#4

/-- The stage of a code; the reserved codes name none (R95, R97). -/
def Stage.ofCode (c : StageCode) : Option Stage :=
  match c.toNat with
  | 0 => some .idle
  | 1 => some .shape
  | 2 => some .invert
  | 3 => some .search
  | 4 => some .bound
  | 5 => some .extract
  | 6 => some .zchk
  | 7 => some .psel
  | 8 => some .crc
  | 9 => some .cmp
  | 10 => some .evdec
  | 11 => some .done
  | _ => none

/-- The stage operation that a value of `STAGE` names (R30). -/
def Instr.ofStage : Stage → Instr
  | .idle => .idle
  | .shape => .shape
  | .invert => .invert
  | .search => .search
  | .bound => .bound
  | .extract => .extract
  | .zchk => .zchk
  | .psel => .psel
  | .crc => .crc
  | .cmp => .cmp
  | .evdec => .evdec
  | .done => .done

/-- The frame operation of a channel with its three fields: one class for each channel value (R88). -/
def Instr.ofFrame (c : Channel) (d : Ident) (e : Byte) (k : Word16) : Instr :=
  match c.toNat with
  | 0 => .frameCh0 d e k
  | 1 => .frameCh1 d e k
  | 2 => .frameCh2 d e k
  | 3 => .frameCh3 d e k
  | 4 => .frameCh4 d e k
  | 5 => .frameCh5 d e k
  | 6 => .frameCh6 d e k
  | 7 => .frameCh7 d e k
  | 8 => .frameCh8 d e k
  | 9 => .frameCh9 d e k
  | 10 => .frameChA d e k
  | 11 => .frameChB d e k
  | 12 => .frameChC d e k
  | 13 => .frameChD d e k
  | 14 => .frameChE d e k
  | _ => .frameChF d e k

/-- The fields of a frame word (R80, R89): preamble `f[0..11]`, channel `f[12..15]`, identity `f[16..35]`,
event byte `f[36..43]`, checksum `f[44..59]`. -/
def FrameWord.preamble (f : FrameWord) : BitVec 12 := f.extractLsb' 48 12

/-- Channel field `c` of a frame word, bits 47 to 44. -/
def FrameWord.channel (f : FrameWord) : Channel := f.extractLsb' 44 4

/-- Identity field `d` of a frame word, bits 43 to 24. -/
def FrameWord.ident (f : FrameWord) : Ident := f.extractLsb' 24 20

/-- Event field `e` of a frame word, bits 23 to 16. -/
def FrameWord.event (f : FrameWord) : Byte := f.extractLsb' 16 8

/-- Checksum field `k` of a frame word, bits 15 to 0. -/
def FrameWord.checksum (f : FrameWord) : Word16 := f.extractLsb' 0 16

/-- Decode one word of either format. -/
def decode : Code → Except DecodeError Instr
  | .stage c =>
    match Stage.ofCode c with
    | some st => .ok (Instr.ofStage st)
    | none => .error (.reservedStage c)
  | .frame f =>
    if FrameWord.preamble f = Config.fpl.pre then
      .ok (Instr.ofFrame (FrameWord.channel f) (FrameWord.ident f) (FrameWord.event f) (FrameWord.checksum f))
    else .error (.noPreamble f)

/-- A bit string as a number, the first bit most significant (R9). -/
def bitsToNat (bits : List Bool) : Nat := bits.foldl (fun n b => 2 * n + b.toNat) 0

/-- The `w`-bit string of a number, the first bit most significant (R9). -/
def natToBits (w n : Nat) : List Bool := (List.range w).map fun i => n.testBit (w - 1 - i)

/-- Decode a string of bits in row order (first bit leftmost): 4 bits are a stage code, 60 bits a frame. -/
def decodeBits (bits : List Bool) : Except DecodeError Instr :=
  if bits.length = 4 then decode (.stage (BitVec.ofNat 4 (bitsToNat bits)))
  else if bits.length = 60 then decode (.frame (BitVec.ofNat 60 (bitsToNat bits)))
  else .error (.badLength bits.length)

/-! The encoder, from the tables of R80, R88, R95. -/

/-- The frame word of a channel and three fields: `PRE : c : d : e : k` (R80). -/
def frameWord (c : Channel) (d : Ident) (e : Byte) (k : Word16) : FrameWord :=
  Config.fpl.pre ++ c ++ d ++ e ++ k

/-- The word of an operation. -/
def encode : Instr → Code
  | .idle => .stage (Stage.code .idle)
  | .shape => .stage (Stage.code .shape)
  | .invert => .stage (Stage.code .invert)
  | .search => .stage (Stage.code .search)
  | .bound => .stage (Stage.code .bound)
  | .extract => .stage (Stage.code .extract)
  | .zchk => .stage (Stage.code .zchk)
  | .psel => .stage (Stage.code .psel)
  | .crc => .stage (Stage.code .crc)
  | .cmp => .stage (Stage.code .cmp)
  | .evdec => .stage (Stage.code .evdec)
  | .done => .stage (Stage.code .done)
  | .frameCh0 d e k => .frame (frameWord 0x0#4 d e k)
  | .frameCh1 d e k => .frame (frameWord 0x1#4 d e k)
  | .frameCh2 d e k => .frame (frameWord 0x2#4 d e k)
  | .frameCh3 d e k => .frame (frameWord 0x3#4 d e k)
  | .frameCh4 d e k => .frame (frameWord 0x4#4 d e k)
  | .frameCh5 d e k => .frame (frameWord 0x5#4 d e k)
  | .frameCh6 d e k => .frame (frameWord 0x6#4 d e k)
  | .frameCh7 d e k => .frame (frameWord 0x7#4 d e k)
  | .frameCh8 d e k => .frame (frameWord 0x8#4 d e k)
  | .frameCh9 d e k => .frame (frameWord 0x9#4 d e k)
  | .frameChA d e k => .frame (frameWord 0xA#4 d e k)
  | .frameChB d e k => .frame (frameWord 0xB#4 d e k)
  | .frameChC d e k => .frame (frameWord 0xC#4 d e k)
  | .frameChD d e k => .frame (frameWord 0xD#4 d e k)
  | .frameChE d e k => .frame (frameWord 0xE#4 d e k)
  | .frameChF d e k => .frame (frameWord 0xF#4 d e k)

/-- A word as a string of bits in row order. -/
def Code.bits : Code → List Bool
  | .stage c => natToBits 4 c.toNat
  | .frame f => natToBits 60 f.toNat

/-- The bits of an operation in row order. -/
def encodeBits (i : Instr) : List Bool := (encode i).bits

/-- What the decoder reads from the table's numbering of a row: `w` is the row's value, `nbits` its width in
whole bytes (8 for the 4-bit STAGE4 rows, 64 for the 60-bit FRAME60 rows). Bits above the format's width must be 0. -/
def decodeTableWord (nbits w : Nat) : Option Instr :=
  if nbits ≤ 8 then
    if w < 2 ^ 4 then (decode (.stage (BitVec.ofNat 4 w))).toOption else none
  else
    if w < 2 ^ 60 then (decode (.frame (BitVec.ofNat 60 w))).toOption else none

end Sys2Proof
end

