-- ==== Sys2Proof/Machine/State.lean ====
section
/-! DEFINITION. Everything the spec gives the machine (10_state.md section 1), as plain data, with the host's
side of the interface beside it; the reset state; the reasons a step can stop. -/

namespace Sys2Proof.Machine

/-- The candidate ports (R41): `ROWS`, and row 0 as the list of its bits, first bit first (R60). `NBITS` is the
list's length, so a row shorter than its stated length cannot be built (93_implementation_defined.md U2). -/
structure Candidate where
  /-- `ROWS`, the number of rows. -/
  rows : Nat
  /-- `RAW[0 .. NBITS-1]`, the bits of row 0 as the host presents them. -/
  raw : List Bool
  deriving DecidableEq, Repr

/-- `NBITS` (R41). -/
def Candidate.nbits (c : Candidate) : Nat := c.raw.length

/-- The payload buffer `B[0..5]` (R20). -/
structure Payload where
  /-- `B[0]`. -/
  b0 : Byte
  /-- `B[1]`. -/
  b1 : Byte
  /-- `B[2]`. -/
  b2 : Byte
  /-- `B[3]`. -/
  b3 : Byte
  /-- `B[4]`. -/
  b4 : Byte
  /-- `B[5]`. -/
  b5 : Byte
  deriving DecidableEq, Repr

/-- The payload buffer as reset and the start action leave it (R50, R131). -/
def Payload.zero : Payload := ⟨0#8, 0#8, 0#8, 0#8, 0#8, 0#8⟩

/-- The five trace labels of R171. -/
inductive Reason where
  /-- `SHORT_BUFFER`, from SHAPE. -/
  | shortBuffer
  /-- `NO_PREAMBLE`, from BOUND. -/
  | noPreamble
  /-- `TRUNCATED`, from BOUND. -/
  | truncated
  /-- `ZERO_COLLISION`, from ZCHK. -/
  | zeroCollision
  /-- `CRC_MISMATCH`, from CMP. -/
  | crcMismatch
  deriving DecidableEq, Repr

/-- How much of the sequence one step of the model runs. R31 makes a stage one atomic step; D5 says that a model
may equally take the whole transaction as one step. -/
inductive Grain where
  /-- One step is one stage. -/
  | stage
  /-- One step started at rest on a row that holds a frame is the whole transaction of that frame. -/
  | transaction
  deriving DecidableEq, Repr

/-- What the host does at one step (R187, R189, R190). -/
inductive HostAct where
  /-- The host changes no port. -/
  | wait
  /-- The host drives `start` to a level. -/
  | drive (start : Bool)
  /-- The host drives `ROWS`, `NBITS`, `RAW` and `start`. -/
  | present (c : Candidate) (start : Bool)
  /-- Reset is applied (R190). -/
  | reset
  deriving DecidableEq, Repr

/-- The machine's state. -/
structure State where
  /-- `ROWS`, `NBITS`, `RAW` (R41): host-driven, never written by the block. -/
  cand : Candidate
  /-- `start` (R42): host-driven. -/
  start : Bool
  /-- `STAGE` (R30). -/
  stage : Stage
  /-- `B[0..5]` (R20). -/
  buf : Payload
  /-- `POL` (R32). -/
  pol : Bool
  /-- `FOUND` (R33). -/
  found : Bool
  /-- `POS` (R33). -/
  pos : Nat
  /-- `POLY` (R34). -/
  poly : Word16
  /-- `CKC` (R35). -/
  ckc : Word16
  /-- `ACCEPT` (R44). -/
  accept : Bool
  /-- `O_ID` (R44). -/
  oId : Ident
  /-- `O_CHAN` (R44). -/
  oChan : Channel
  /-- `O_EVT` (R44). -/
  oEvt : Byte
  /-- `O_STATE` (R44). -/
  oState : Bool
  /-- `O_HB` (R44). -/
  oHb : Bool
  /-- `REASON` (R37): ghost, not state of the hardware, read by nothing. -/
  reason : Option Reason
  /-- The model's own: how much one step runs (log entry 3). -/
  grain : Grain
  /-- The model's own: what the host does at the coming steps, the next one first (log entry 4). -/
  host : List HostAct
  deriving DecidableEq, Repr

/-- Why the machine stops with a fault. -/
inductive Fault where
  /-- A read of the row space outside `0 <= i < NBITS`, where `RowBit` has no value (R61, R62). Raised by SEARCH
  and EXTRACT through `rowBits`, and by a step that looks for the candidate's frame. Safe: the machine stops where
  the spec gives no value, and no reachable state raises it (R170). -/
  | rowReadOutOfRange
  deriving DecidableEq, Repr

/-- Why the machine has no step. -/
inductive Refusal where
  /-- An operation that has no meaning yet; raised only in exec's arms. Safe. -/
  | notModelled (mnemonic : String)
  /-- The host presents another candidate while a transaction runs: the spec gives the outcome no meaning and
  asks for a refusal (R196, 93_implementation_defined.md U1). Raised by the host's part of a step. Safe. -/
  | candidateChanged
  /-- The word fetched is no operation (R97, R99). Raised by the step; safe, and no state raises it, since
  `STAGE` is an enumeration and a frame is fetched only where the preamble was found. -/
  | undecodable
  deriving DecidableEq, Repr

/-- The state right after reset (R50, R190): `STAGE` is IDLE and every other register of the block is 0. The
host-driven ports, unspecified by R50, hold an empty candidate and `start == 0` (log entry 2). -/
def State.reset : State where
  cand := ⟨0, []⟩
  start := false
  stage := .idle
  buf := Payload.zero
  pol := false
  found := false
  pos := 0
  poly := 0#16
  ckc := 0#16
  accept := false
  oId := 0#20
  oChan := 0#4
  oEvt := 0#8
  oState := false
  oHb := false
  reason := none
  grain := .stage
  host := []

end Sys2Proof.Machine
end

