-- ==== Sys2Proof/Machine/Operands.lean ====
section
/-! DEFINITION. The operands of the stages: the row through `RowBit` and `RowBits` (20_memory.md), the payload
bytes, and the four views of the payload buffer (10_state.md R21). -/

namespace Sys2Proof.Machine

/-- `RowBit(i) = RAW[i] xor POL`, defined exactly for `0 <= i < NBITS` (R61, R62). -/
def rowBit (c : Candidate) (pol : Bool) (i : Nat) : Option Bool :=
  match c.raw[i]? with
  | some b => some (b ^^ pol)
  | none => none

/-- `RowBits(a, n)`: `n` row bits from `a` on, `RowBit(a)` most significant (R63); no value when one of the reads
has none. -/
def rowBits (c : Candidate) (pol : Bool) (a : Nat) : (n : Nat) → Option (BitVec n)
  | 0 => some 0#0
  | n + 1 =>
    match rowBit c pol a, rowBits c pol (a + 1) n with
    | some b, some w => some (BitVec.cons b w)
    | _, _ => none

/-- Read payload byte `B[k]` (R20). -/
def Payload.read (b : Payload) (k : Fin 6) : Byte :=
  match k with
  | 0 => b.b0
  | 1 => b.b1
  | 2 => b.b2
  | 3 => b.b3
  | 4 => b.b4
  | 5 => b.b5

/-- `B[k] <- v`, the block's only store: all eight bits of one byte, nothing else (R66). -/
def Payload.write (b : Payload) (k : Fin 6) (v : Byte) : Payload :=
  match k with
  | 0 => { b with b0 := v }
  | 1 => { b with b1 := v }
  | 2 => { b with b2 := v }
  | 3 => { b with b3 := v }
  | 4 => { b with b4 := v }
  | 5 => { b with b5 := v }

/-- `CHAN = B[0][7:4]` (R21). -/
def Payload.chan (b : Payload) : Channel := b.b0.extractLsb' 4 4

/-- `ID = B[0][3:0] : B[1] : B[2]` (R21). -/
def Payload.ident (b : Payload) : Ident := b.b0.extractLsb' 0 4 ++ b.b1 ++ b.b2

/-- `EVT = B[3]` (R21). -/
def Payload.evt (b : Payload) : Byte := b.b3

/-- `CKT = B[4] : B[5]`, big-endian (R21, R65). -/
def Payload.ckt (b : Payload) : Word16 := b.b4 ++ b.b5

/-- The bytes the checksum covers, `B[0]` first (R86). -/
def Payload.covered (b : Payload) : List Byte := [b.b0, b.b1, b.b2, b.b3]

/-- The buffer that holds the fields `c`, `d`, `e`, `k` in format PAY48 (R81). -/
def Payload.ofFields (c : Channel) (d : Ident) (e : Byte) (k : Word16) : Payload where
  b0 := c ++ d.extractLsb' 16 4
  b1 := d.extractLsb' 8 8
  b2 := d.extractLsb' 0 8
  b3 := e
  b4 := k.extractLsb' 8 8
  b5 := k.extractLsb' 0 8

end Sys2Proof.Machine
end

