-- ==== Sys2Proof/Machine/Flags.lean ====
section
/-! DEFINITION. The values the block tests and the flags it computes: the two event flags (44_event_decoder.md
R160) and the four checks of the acceptance chain (R132, R120, R134, R152), each used once and stored
nowhere (10_state.md R36). -/

namespace Sys2Proof.Machine

/-- `state = (EVT & 0x80) >> 7`: 1 is "open" (R160). -/
def eventState (evt : Byte) : Bool := ((evt &&& Config.fpl.stateMask) >>> 7) == 1#8

/-- `heartbeat = (EVT & 0x04) >> 2`: 1 is "yes" (R160). -/
def eventHeartbeat (evt : Byte) : Bool := ((evt &&& Config.fpl.hbMask) >>> 2) == 1#8

/-- SHAPE passes: `ROWS == 1 and NBITS >= 60` (R132). -/
def shapeOk (c : Candidate) : Bool :=
  decide (c.rows = Config.fpl.reqRows) && decide (Config.fpl.minBits ≤ c.nbits)

/-- BOUND's second test passes: `NBITS - POS - 12 >= 48`, that is `POS + 60 <= NBITS` (R120). -/
def roomOk (nbits pos : Nat) : Bool :=
  decide (pos + Config.fpl.preLen + Config.fpl.payBits ≤ nbits)

/-- ZCHK rejects: `ID == 0 and CKT == 0` (R134). -/
def zeroCollision (b : Payload) : Bool := b.ident == 0#20 && b.ckt == 0#16

/-- CMP passes: `CKT == CKC` (R152). -/
def checksumOk (b : Payload) (ckc : Word16) : Bool := b.ckt == ckc

end Sys2Proof.Machine
end

