-- ==== Sys2Proof/Machine/Ops.lean ====
section
/-! DEFINITION. The named operations over the registers: the start action (R131), the end of a transaction by
rejection (R176, the block's one kind of exception) or acceptance (R161), reset (R190), and the single
register updates the stages make. -/

namespace Sys2Proof.Machine

/-- The type of a meaning's answer. -/
abbrev Answer := Host.Outcome State Fault Refusal

/-- `STAGE <- st` (R31). -/
def State.goto (s : State) (st : Stage) : State := { s with stage := st }

/-- `POL <- v` (R32). -/
def State.setPol (s : State) (v : Bool) : State := { s with pol := v }

/-- `FOUND <- f; POS <- p` (R33). -/
def State.setMatch (s : State) (f : Bool) (p : Nat) : State := { s with found := f, pos := p }

/-- `B[0..5] <- b` (R20). -/
def State.setBuf (s : State) (b : Payload) : State := { s with buf := b }

/-- `POLY <- v` (R34). -/
def State.setPoly (s : State) (v : Word16) : State := { s with poly := v }

/-- `CKC <- v` (R35). -/
def State.setCkc (s : State) (v : Word16) : State := { s with ckc := v }

/-- The six outputs of the result port (R44) and the ghost label at their cleared values. -/
def State.clearResult (s : State) : State :=
  { s with accept := false, oId := 0#20, oChan := 0#4, oEvt := 0#8, oState := false, oHb := false }

/-- Every working register at its cleared value (R131). -/
def State.clearWork (s : State) : State :=
  { s with buf := Payload.zero, pol := false, found := false, pos := 0, poly := 0#16, ckc := 0#16 }

/-- `StartAction()` (R131): every working and output register is cleared and `STAGE <- SHAPE`. The ghost label
is dropped with them (log entry 5). -/
def State.startAction (s : State) : State :=
  { s.clearWork.clearResult with reason := none, stage := .shape }

/-- `reject(<LABEL>)` (R176): not accepted, zero record, `STAGE <- DONE`; the working registers keep their
values. The label goes into the ghost field alone (R37). -/
def State.reject (s : State) (r : Reason) : State :=
  { s.clearResult with reason := some r, stage := .done }

/-- `accept()` with the two flags (R161): the record is loaded from the views and `STAGE <- DONE`. -/
def State.acceptWith (s : State) (state heartbeat : Bool) : State :=
  { s with
    oId := s.buf.ident, oChan := s.buf.chan, oEvt := s.buf.evt, oState := state, oHb := heartbeat
    accept := true, stage := .done }

/-- Reset (R190, R50): IDLE, every other register of the block 0; the host's side is not the block's to reset. -/
def State.applyReset (s : State) : State :=
  { s.clearWork.clearResult with reason := none, stage := .idle }

/-- What IDLE and DONE do (R130, R136): begin a transaction when `start == 1`, else hold in stage `st`. -/
def State.restIn (s : State) (st : Stage) : State :=
  if s.start then s.startAction else s.goto st

/-- Go on with the next stage unless the transaction is over: the short-circuit of R138. -/
def thenStage (a : Answer) (f : State → Answer) : Answer :=
  match a with
  | .next s => if s.stage = .done then .next s else f s
  | .fault r => .fault r
  | .refused r => .refused r

/-- The search of R112 over a list of offsets, tried in order: the first `p` with `RowBits(p, 12) == PRE`. The
outer `none` is a read that has no value. -/
def searchFrom (c : Candidate) (pol : Bool) : List Nat → Option (Option Nat)
  | [] => some none
  | p :: ps =>
    match rowBits c pol p 12 with
    | none => none
    | some w => if w = Config.fpl.pre then some (some p) else searchFrom c pol ps

/-- The offsets SEARCH tries: `0 .. NBITS - 12`, ascending (R112); none when `NBITS < 12`. -/
def searchOffsets (nbits : Nat) : List Nat := List.range (nbits + 1 - Config.fpl.preLen)

/-- The six byte loads of EXTRACT (R122): `B[j] <- RowBits(a + 8*j, 8)` for the listed `j`, in order. -/
def loadBytes (c : Candidate) (pol : Bool) (a : Nat) : List (Fin 6) → Payload → Option Payload
  | [], b => some b
  | j :: js, b =>
    match rowBits c pol (a + 8 * j.val) 8 with
    | none => none
    | some v => loadBytes c pol a js (b.write j v)

/-- One shift of the checksum register (R148): left by one, bit 15 dropped, the polynomial XORed in when the bit
shifted out was 1. -/
def crcShift (poly r : Word16) : Word16 :=
  if r.msb then (r <<< 1) ^^^ poly else r <<< 1

/-- `n` shifts. -/
def crcShifts (poly : Word16) : Nat → Word16 → Word16
  | 0, r => r
  | n + 1, r => crcShifts poly n (crcShift poly r)

/-- One message byte (R148): XORed into the high half, then eight shifts. -/
def crcByte (poly r : Word16) (b : Byte) : Word16 :=
  crcShifts poly 8 (r ^^^ (b.zeroExtend 16 <<< 8))

/-- The checksum of a list of bytes, first byte first, from `CRC_INIT`, with `CRC_XOROUT` at the end (R148). -/
def crc16 (poly : Word16) (bytes : List Byte) : Word16 :=
  bytes.foldl (crcByte poly) Config.fpl.crcInit ^^^ Config.fpl.crcXorOut

/-- The polynomial a channel selects (R145, R88). -/
def polyFor (c : Channel) : Word16 :=
  if Config.fpl.altChannels.contains c then Config.fpl.polyAlt else Config.fpl.polyBase

end Sys2Proof.Machine
end

