-- ==== Sys2Proof/Machine/AcceptancePolicy.lean ====
section
/-! DEFINITION. The Acceptance Policy (42_acceptance_policy.md): IDLE, SHAPE, ZCHK, DONE. -/

namespace Sys2Proof.Machine

/-- IDLE (R130): wait for `start`. -/
def execIdle (s : State) : Answer := .next (s.restIn .idle)

/-- SHAPE (R132): reject unless there is exactly one row, of at least 60 bits. -/
def execShape (s : State) : Answer :=
  if shapeOk s.cand then .next (s.goto .invert) else .next (s.reject .shortBuffer)

/-- ZCHK (R134): reject when identity and transmitted checksum are both zero. -/
def execZchk (s : State) : Answer :=
  if zeroCollision s.buf then .next (s.reject .zeroCollision) else .next (s.goto .psel)

/-- DONE (R136): hold the result, wait for `start`. -/
def execDone (s : State) : Answer := .next (s.restIn .done)

end Sys2Proof.Machine
end

