-- ==== Sys2Proof/Machine/ChecksumValidator.lean ====
section
/-! DEFINITION. The Checksum Validator (43_checksum_validator.md): PSEL, CRC, CMP. -/

namespace Sys2Proof.Machine

/-- PSEL (R145): the polynomial by channel. -/
def execPsel (s : State) : Answer := .next ((s.setPoly (polyFor s.buf.chan)).goto .crc)

/-- CRC (R148): the checksum of `B[0..3]` under `POLY`. -/
def execCrc (s : State) : Answer := .next ((s.setCkc (crc16 s.poly s.buf.covered)).goto .cmp)

/-- CMP (R152): reject unless the transmitted checksum equals the computed one. -/
def execCmp (s : State) : Answer :=
  if checksumOk s.buf s.ckc then .next (s.goto .evdec) else .next (s.reject .crcMismatch)

end Sys2Proof.Machine
end

