-- ==== Sys2Proof/Machine/EventDecoder.lean ====
section
/-! DEFINITION. The Event Decoder (44_event_decoder.md): EVDEC. -/

namespace Sys2Proof.Machine

/-- EVDEC (R160): decode the two flags, load the record, accept. -/
def execEvdec (s : State) : Answer :=
  .next (s.acceptWith (eventState s.buf.evt) (eventHeartbeat s.buf.evt))

end Sys2Proof.Machine
end

