-- ==== Sys2Proof/Machine/FieldExtractor.lean ====
section
/-! DEFINITION. The Field Extractor (41_field_extractor.md): BOUND, EXTRACT. -/

namespace Sys2Proof.Machine

/-- BOUND (R120): reject without a match, or with fewer than 48 bits after it. -/
def execBound (s : State) : Answer :=
  if s.found then
    if roomOk s.cand.nbits s.pos then .next (s.goto .extract) else .next (s.reject .truncated)
  else .next (s.reject .noPreamble)

/-- EXTRACT (R122): the 48 bits after the preamble go into `B[0..5]`, first bit in bit 7 of `B[0]`. -/
def execExtract (s : State) : Answer :=
  match loadBytes s.cand s.pol (s.pos + Config.fpl.preLen) (List.finRange 6) s.buf with
  | none => .fault .rowReadOutOfRange
  | some b => .next ((s.setBuf b).goto .zchk)

end Sys2Proof.Machine
end

