-- ==== Sys2Proof/Machine/FrameLocator.lean ====
section
/-! DEFINITION. The Frame Locator (40_frame_locator.md): INVERT, SEARCH. -/

namespace Sys2Proof.Machine

/-- INVERT (R110): from now on every row read returns the complement. -/
def execInvert (s : State) : Answer := .next ((s.setPol true).goto .search)

/-- SEARCH (R112): `FOUND` and `POS` get the first occurrence of the preamble, or 0 and 0. -/
def execSearch (s : State) : Answer :=
  match searchFrom s.cand s.pol (searchOffsets s.cand.nbits) with
  | none => .fault .rowReadOutOfRange
  | some none => .next ((s.setMatch false 0).goto .bound)
  | some (some p) => .next ((s.setMatch true p).goto .bound)

end Sys2Proof.Machine
end

