-- ==== Sys2Proof/Machine/Frame.lean ====
section
/-! DEFINITION. The sixteen frame classes (30_encoding.md R88). The meaning of a frame is the whole transaction
(R140), run as one step (D5): located in the candidate row as the stages locate it, its payload loaded from
its fields, its polynomial the one of its class's row of R88's table. -/

namespace Sys2Proof.Machine

/-- The stage operation the sequencer runs next (R30): what goes on when a frame cannot start. -/
def runStage (s : State) : Answer :=
  match s.stage with
  | .idle => execIdle s
  | .shape => execShape s
  | .invert => execInvert s
  | .search => execSearch s
  | .bound => execBound s
  | .extract => execExtract s
  | .zchk => execZchk s
  | .psel => execPsel s
  | .crc => execCrc s
  | .cmp => execCmp s
  | .evdec => execEvdec s
  | .done => execDone s

/-- A frame's fields are the 48 bits EXTRACT copies (R81, R124): load them. -/
def loadFrame (c : Channel) (d : Ident) (e : Byte) (k : Word16) (s : State) : Answer :=
  .next ((s.setBuf (Payload.ofFields c d e k)).goto .zchk)

/-- A frame's class decides the row of R88's table that PSEL takes. -/
def loadClassPoly (poly : Word16) (s : State) : Answer := .next ((s.setPoly poly).goto .crc)

/-- The transaction of one frame, from the start action to DONE (R140), with the short-circuits of R138. -/
def frameTransaction (c : Channel) (poly : Word16) (d : Ident) (e : Byte) (k : Word16) (s : State) : Answer :=
  thenStage (execShape s.startAction) fun s1 =>
  thenStage (execInvert s1) fun s2 =>
  thenStage (execSearch s2) fun s3 =>
  thenStage (execBound s3) fun s4 =>
  thenStage (loadFrame c d e k s4) fun s5 =>
  thenStage (execZchk s5) fun s6 =>
  thenStage (loadClassPoly poly s6) fun s7 =>
  thenStage (execCrc s7) fun s8 =>
  thenStage (execCmp s8) execEvdec

/-- A frame of a class: its transaction where `start == 1` is sampled (R42, R130, R136). Anywhere else the frame
does not start, and the block goes on with its own stage (R197). -/
def execFrame (c : Channel) (poly : Word16) (d : Ident) (e : Byte) (k : Word16) (s : State) : Answer :=
  if s.stage.atRest && s.start then frameTransaction c poly d e k s else runStage s

/-- FRAME.CH0: baseline family, polynomial 0x8005 (R88). -/
def execFrameCh0 (d : Ident) (e : Byte) (k : Word16) (s : State) : Answer :=
  execFrame 0x0#4 Config.fpl.polyBase d e k s

/-- FRAME.CH1: baseline family, polynomial 0x8005 (R88). -/
def execFrameCh1 (d : Ident) (e : Byte) (k : Word16) (s : State) : Answer :=
  execFrame 0x1#4 Config.fpl.polyBase d e k s

/-- FRAME.CH2: vendor family, polynomial 0x8050 (R88). -/
def execFrameCh2 (d : Ident) (e : Byte) (k : Word16) (s : State) : Answer :=
  execFrame 0x2#4 Config.fpl.polyAlt d e k s

/-- FRAME.CH3: baseline family, polynomial 0x8005 (R88). -/
def execFrameCh3 (d : Ident) (e : Byte) (k : Word16) (s : State) : Answer :=
  execFrame 0x3#4 Config.fpl.polyBase d e k s

/-- FRAME.CH4: baseline family, polynomial 0x8005 (R88). -/
def execFrameCh4 (d : Ident) (e : Byte) (k : Word16) (s : State) : Answer :=
  execFrame 0x4#4 Config.fpl.polyBase d e k s

/-- FRAME.CH5: baseline family, polynomial 0x8005 (R88). -/
def execFrameCh5 (d : Ident) (e : Byte) (k : Word16) (s : State) : Answer :=
  execFrame 0x5#4 Config.fpl.polyBase d e k s

/-- FRAME.CH6: baseline family, polynomial 0x8005 (R88). -/
def execFrameCh6 (d : Ident) (e : Byte) (k : Word16) (s : State) : Answer :=
  execFrame 0x6#4 Config.fpl.polyBase d e k s

/-- FRAME.CH7: baseline family, polynomial 0x8005 (R88). -/
def execFrameCh7 (d : Ident) (e : Byte) (k : Word16) (s : State) : Answer :=
  execFrame 0x7#4 Config.fpl.polyBase d e k s

/-- FRAME.CH8: baseline family, polynomial 0x8005 (R88). -/
def execFrameCh8 (d : Ident) (e : Byte) (k : Word16) (s : State) : Answer :=
  execFrame 0x8#4 Config.fpl.polyBase d e k s

/-- FRAME.CH9: baseline family, polynomial 0x8005 (R88). -/
def execFrameCh9 (d : Ident) (e : Byte) (k : Word16) (s : State) : Answer :=
  execFrame 0x9#4 Config.fpl.polyBase d e k s

/-- FRAME.CHA: vendor family, polynomial 0x8050 (R88). -/
def execFrameChA (d : Ident) (e : Byte) (k : Word16) (s : State) : Answer :=
  execFrame 0xA#4 Config.fpl.polyAlt d e k s

/-- FRAME.CHB: baseline family, polynomial 0x8005 (R88). -/
def execFrameChB (d : Ident) (e : Byte) (k : Word16) (s : State) : Answer :=
  execFrame 0xB#4 Config.fpl.polyBase d e k s

/-- FRAME.CHC: baseline family, polynomial 0x8005 (R88). -/
def execFrameChC (d : Ident) (e : Byte) (k : Word16) (s : State) : Answer :=
  execFrame 0xC#4 Config.fpl.polyBase d e k s

/-- FRAME.CHD: baseline family, polynomial 0x8005 (R88). -/
def execFrameChD (d : Ident) (e : Byte) (k : Word16) (s : State) : Answer :=
  execFrame 0xD#4 Config.fpl.polyBase d e k s

/-- FRAME.CHE: baseline family, polynomial 0x8005 (R88). -/
def execFrameChE (d : Ident) (e : Byte) (k : Word16) (s : State) : Answer :=
  execFrame 0xE#4 Config.fpl.polyBase d e k s

/-- FRAME.CHF: baseline family, polynomial 0x8005 (R88). -/
def execFrameChF (d : Ident) (e : Byte) (k : Word16) (s : State) : Answer :=
  execFrame 0xF#4 Config.fpl.polyBase d e k s

end Sys2Proof.Machine
end

