-- ==== Sys2Proof/Machine/Dispatch.lean ====
section
/-! DEFINITION. One arm for each operation, each one direct call of its meaning. -/

namespace Sys2Proof.Machine

-- The stages of R95, then the frame classes of R88.
def exec (i : Instr) (s : State) : Host.Outcome State Fault Refusal :=
  match i with
  | .idle => Sys2Proof.Machine.execIdle s
  | .shape => Sys2Proof.Machine.execShape s
  | .invert => Sys2Proof.Machine.execInvert s
  | .search => Sys2Proof.Machine.execSearch s
  | .bound => Sys2Proof.Machine.execBound s
  | .extract => Sys2Proof.Machine.execExtract s
  | .zchk => Sys2Proof.Machine.execZchk s
  | .psel => Sys2Proof.Machine.execPsel s
  | .crc => Sys2Proof.Machine.execCrc s
  | .cmp => Sys2Proof.Machine.execCmp s
  | .evdec => Sys2Proof.Machine.execEvdec s
  | .done => Sys2Proof.Machine.execDone s
  | .frameCh0 d e k => Sys2Proof.Machine.execFrameCh0 d e k s
  | .frameCh1 d e k => Sys2Proof.Machine.execFrameCh1 d e k s
  | .frameCh2 d e k => Sys2Proof.Machine.execFrameCh2 d e k s
  | .frameCh3 d e k => Sys2Proof.Machine.execFrameCh3 d e k s
  | .frameCh4 d e k => Sys2Proof.Machine.execFrameCh4 d e k s
  | .frameCh5 d e k => Sys2Proof.Machine.execFrameCh5 d e k s
  | .frameCh6 d e k => Sys2Proof.Machine.execFrameCh6 d e k s
  | .frameCh7 d e k => Sys2Proof.Machine.execFrameCh7 d e k s
  | .frameCh8 d e k => Sys2Proof.Machine.execFrameCh8 d e k s
  | .frameCh9 d e k => Sys2Proof.Machine.execFrameCh9 d e k s
  | .frameChA d e k => Sys2Proof.Machine.execFrameChA d e k s
  | .frameChB d e k => Sys2Proof.Machine.execFrameChB d e k s
  | .frameChC d e k => Sys2Proof.Machine.execFrameChC d e k s
  | .frameChD d e k => Sys2Proof.Machine.execFrameChD d e k s
  | .frameChE d e k => Sys2Proof.Machine.execFrameChE d e k s
  | .frameChF d e k => Sys2Proof.Machine.execFrameChF d e k s

end Sys2Proof.Machine
end

