-- ==== Sys2Proof/Machine/Fetch.lean ====
section
/-! DEFINITION. What a step runs. The block fetches nothing from a memory: the sequence is hardwired (20_memory.md
R76) and `STAGE` names the stage that runs next (R30). A frame stands in the candidate row at the first
occurrence of the preamble (30_encoding.md R82). -/

namespace Sys2Proof.Machine

/-- The frame a candidate carries (R82): exactly one row of at least 60 bits, the first occurrence of the preamble
in the complemented row, and 60 bits from there. No row bit is read before the shape is known to pass and none of the
payload before the room for it is (R61, R139). The outer `none` is a read that has no value; it is not "no frame". -/
def locateFrame (c : Candidate) : Option (Option FrameWord) :=
  if shapeOk c then
    match searchFrom c true (searchOffsets c.nbits) with
    | none => none
    | some none => some none
    | some (some p) => if roomOk c.nbits p then (rowBits c true p 60).map some else some none
  else some none

/-- A transaction starts at this step: `start == 1` in IDLE or DONE (R42). -/
def State.starting (s : State) : Bool := s.stage.atRest && s.start

/-- The word the next step runs: the frame of the candidate where the step is a whole transaction that starts and
there is a frame, else the stage code in `STAGE`. No word where finding it took a read that has no value (R61). -/
def fetchWord (s : State) : Option Code :=
  match s.grain with
  | .stage => some (.stage s.stage.code)
  | .transaction =>
    if s.starting then
      match locateFrame s.cand with
      | none => none
      | some (some f) => some (.frame f)
      | some none => some (.stage s.stage.code)
    else some (.stage s.stage.code)

/-- The candidate of one row that is a frame and nothing else, complemented as it is on the wire (R90). -/
def bareCandidate (f : FrameWord) : Candidate where
  rows := 1
  raw := (natToBits 60 f.toNat).map not

/-- Put a stage code into `STAGE` for the next step; a reserved code cannot stand there (R97), so nothing is changed. -/
def placeStage (s : State) (c : StageCode) : State :=
  match Stage.ofCode c with
  | some st => { s with stage := st, grain := .stage, host := [] }
  | none => s

/-- Present a frame alone in its row with `start == 1`, the next step being its whole transaction; a block that is
busy is put to rest in IDLE. -/
def placeFrame (s : State) (f : FrameWord) : State :=
  { s with
    cand := bareCandidate f, start := true, grain := .transaction, host := []
    stage := if s.stage.atRest then s.stage else .idle }

/-- The word `w` of the table's numbering placed where the next step takes it from. -/
def placeTableWord (s : State) (nbits w : Nat) : State :=
  if nbits ≤ 8 then placeStage s (BitVec.ofNat 4 w) else placeFrame s (BitVec.ofNat 60 w)

end Sys2Proof.Machine
end

