-- ==== Sys2Proof/Machine/HostPort.lean ====
section
/-! DEFINITION. The interface to the host (10_state.md R40 to R47, 60_exceptions.md R187, R189): what the host
does at a step, what it observes, and the labels it applies to a record (R164). -/

namespace Sys2Proof.Machine

/-- `busy` (R43). -/
def State.busy (s : State) : Bool := !s.stage.atRest

/-- `done` (R43). -/
def State.done (s : State) : Bool := s.stage == .done

/-- The five fields of the decoded-event record (R162). -/
structure Record where
  /-- Device identity. -/
  ident : Ident
  /-- Channel. -/
  chan : Channel
  /-- Raw event byte. -/
  event : Byte
  /-- 1 is "open". -/
  state : Bool
  /-- 1 is "yes". -/
  heartbeat : Bool
  deriving DecidableEq, Repr

/-- The record outputs when nothing was accepted (R44). -/
def Record.zero : Record := ⟨0#20, 0#4, 0#8, false, false⟩

/-- The five record outputs of the result port (R44). -/
def State.record (s : State) : Record := ⟨s.oId, s.oChan, s.oEvt, s.oState, s.oHb⟩

/-- What a host can observe (R47, D26): `busy`, `done`, and the result port only while `done == 1`. -/
structure Observation where
  /-- The output `busy`. -/
  busy : Bool
  /-- The output `done`. -/
  done : Bool
  /-- `ACCEPT` and the record, while `done == 1`. -/
  result : Option (Bool × Record)
  deriving DecidableEq, Repr

/-- The observation of a state (R47). -/
def State.observe (s : State) : Observation where
  busy := s.busy
  done := s.done
  result := if s.done then some (s.accept, s.record) else none

/-- What the host's action makes of a step: the stage runs, the block is held in reset, or there is no step. -/
inductive HostPhase where
  /-- The ports are driven and the block runs. -/
  | run (s : State)
  /-- Reset was applied and the block runs nothing (R190). -/
  | held (s : State)
  /-- The host broke a duty the spec gives no meaning to break (R196). -/
  | refuse (r : Refusal)
  deriving DecidableEq, Repr

/-- The host's part of a step. A candidate may be driven at rest, and in a transaction only if it is the one
already there (R196, U1); `start` may be driven at any time (R189, R197); reset may be applied at any time (R190). -/
def hostPhase (s : State) : HostPhase :=
  match s.host with
  | [] => .run s
  | .wait :: rest => .run { s with host := rest }
  | .drive b :: rest => .run { s with host := rest, start := b }
  | .present c b :: rest =>
    if s.stage.atRest || c == s.cand then .run { s with host := rest, cand := c, start := b }
    else .refuse .candidateChanged
  | .reset :: rest => .held { s with host := rest }.applyReset

/-- The label of `O_STATE` (R164). -/
def stateLabel (v : Bool) : String := if v then "open" else "closed"

/-- The label of `O_HB` (R164). -/
def heartbeatLabel (v : Bool) : String := if v then "yes" else "no"

end Sys2Proof.Machine
end

