-- ==== Sys2Proof/Machine/Step.lean ====
section
/-! DEFINITION. One step: the host's action, then the operation that the state names, decoded and run. -/

namespace Sys2Proof.Machine

/-- One step of the machine (R31, R187). -/
def step (s : State) : Host.Outcome State Fault Refusal :=
  match hostPhase s with
  | .held t => .next t
  | .refuse r => .refused r
  | .run t =>
    match fetchWord t with
    | none => .fault .rowReadOutOfRange
    | some w =>
      match decode w with
      | .ok i => exec i t
      | .error _ => .refused .undecodable

/-- `s` with the table word `w` placed where the next step takes its operation from. -/
def State.withFetchWord (s : State) (nbits w : Nat) : State := placeTableWord s nbits w

end Sys2Proof.Machine
end

