-- ==== Sys2Proof/Machine/Instances.lean ====
section
/-! DEFINITION. Several instances of the block (60_exceptions.md R184): a model of `n` instances is the product of
`n` models of one, here a list of states of which a schedule steps one at a time. -/

namespace Sys2Proof.Machine

/-- Instance `k` steps; every other one stays as it is. An instance that stops leaves the list unchanged. -/
def stepInstance (k : Nat) (blocks : List State) : List State :=
  match blocks[k]? with
  | none => blocks
  | some s =>
    match step s with
    | .next t => blocks.set k t
    | .fault _ => blocks
    | .refused _ => blocks

end Sys2Proof.Machine
end

