-- ==== Sys2Proof/Machine/Transaction.lean ====
section
/-! DEFINITION. DECODE (42_acceptance_policy.md R140): a transaction as one function of the candidate, written from
R140's own text over the complemented row and not from the stages. -/

namespace Sys2Proof.Machine

/-- The outcome of a transaction (R2): accepted with a record, or not recognized with nothing. -/
inductive Verdict where
  /-- "accepted", with the record. -/
  | accepted (r : Record)
  /-- "not recognized". -/
  | notRecognized
  deriving DecidableEq, Repr

/-- `V[i] = 1 - RAW[i]` (R140). -/
def normalised (c : Candidate) : List Bool := c.raw.map not

/-- The preamble as a list of bits, `PRE[0]` first (R6). -/
def preambleBits : List Bool := natToBits 12 Config.fpl.pre.toNat

/-- The set `M` of R140 in ascending order: the offsets `p <= NBITS - 12` with `V[p .. p+11] == PRE`. -/
def matchOffsets (v : List Bool) : List Nat :=
  (List.range (v.length - 11)).filter fun p => (v.drop p).take 12 == preambleBits

/-- The number of `n` bits that stands at offset `a` of a row, the first bit most significant. -/
def fieldAt (v : List Bool) (a n : Nat) : BitVec n := BitVec.ofNat n (bitsToNat ((v.drop a).take n))

/-- `DECODE(ROWS, NBITS, RAW)` (R140). -/
def decodeCandidate (c : Candidate) : Verdict :=
  if c.rows ≠ 1 ∨ c.raw.length < 60 then .notRecognized
  else
    let v := normalised c
    match matchOffsets v with
    | [] => .notRecognized
    | p :: _ =>
      if v.length - p - 12 < 48 then .notRecognized
      else
        let b0 := fieldAt v (p + 12) 8
        let b1 := fieldAt v (p + 20) 8
        let b2 := fieldAt v (p + 28) 8
        let b3 := fieldAt v (p + 36) 8
        let b4 := fieldAt v (p + 44) 8
        let b5 := fieldAt v (p + 52) 8
        let chan : Channel := (b0 >>> 4).setWidth 4
        let ident : Ident :=
          ((b0.setWidth 20 &&& 0x0F#20) <<< 16) ||| (b1.setWidth 20 <<< 8) ||| b2.setWidth 20
        let ckt : Word16 := (b4.setWidth 16 <<< 8) ||| b5.setWidth 16
        if ident = 0 ∧ ckt = 0 then .notRecognized
        else
          let poly : Word16 := if chan = 0x2#4 ∨ chan = 0xA#4 then 0x8050#16 else 0x8005#16
          if ckt ≠ crc16 poly [b0, b1, b2, b3] then .notRecognized
          else .accepted ⟨ident, chan, b3, b3.getLsbD 7, b3.getLsbD 2⟩

/-- What the result port holds for an outcome (R44). -/
def Verdict.port : Verdict → Bool × Record
  | .accepted r => (true, r)
  | .notRecognized => (false, Record.zero)

end Sys2Proof.Machine
end

