-- ==== Sys2Proof/Safety.lean ====
section
/-! DEFINITION. What counts as a safe run, in the terms claims use: occurrences of the preamble in a row, the
invariant of every step, and runs that never fault. -/

namespace Sys2Proof.Machine

/-- `match(p)` (R112): the whole preamble lies inside the row at offset `p`, bit by bit. -/
def MatchAt (c : Candidate) (pol : Bool) (p : Nat) : Prop :=
  p + 12 ≤ c.nbits ∧ ∀ j, j < 12 → rowBit c pol (p + j) = some ((0b111111111110#12).getMsbD j)

/-- `p` is the least offset at which the preamble occurs (R112). -/
def FirstMatch (c : Candidate) (pol : Bool) (p : Nat) : Prop :=
  MatchAt c pol p ∧ ∀ q, q < p → ¬ MatchAt c pol q

/-- The payload buffer holds the 48 row bits from `a` on, most significant bit first (R64). -/
def HoldsRow (c : Candidate) (pol : Bool) (a : Nat) (b : Payload) : Prop :=
  ∀ k : Fin 6, rowBits c pol (a + 8 * k.val) 8 = some (b.read k)

/-- A transaction is running and its next stage is `st` or a later one in the order of R95. -/
def State.reached (s : State) (st : Stage) : Prop :=
  s.stage.atRest = false ∧ st.code.toNat ≤ s.stage.code.toNat

/-- A transaction is running and its next stage is `st` or an earlier one. -/
def State.upTo (s : State) (st : Stage) : Prop :=
  s.stage.atRest = false ∧ s.stage.code.toNat ≤ st.code.toNat

/-- What holds at reset and after every step. -/
structure State.Inv (s : State) : Prop where
  /-- In IDLE, entered only by reset, every working register is clear (R50, R130). -/
  idle : s.stage = .idle →
    s.buf = Payload.zero ∧ s.pol = false ∧ s.found = false ∧ s.pos = 0 ∧ s.poly = 0#16 ∧ s.ckc = 0#16
  /-- Past SHAPE the candidate is one row of at least 60 bits (R114). -/
  shaped : s.reached .invert → s.cand.rows = 1 ∧ 60 ≤ s.cand.nbits
  /-- Until INVERT the polarity is as received (R32). -/
  upright : s.upTo .invert → s.pol = false
  /-- From SEARCH on, reads are inverted (R32). -/
  inverted : s.reached .search → s.pol = true
  /-- Until SEARCH no match is recorded (R33). -/
  unsearched : s.upTo .search → s.found = false ∧ s.pos = 0
  /-- In BOUND, `FOUND` and `POS` say whether and where the preamble first occurs (R33). -/
  searched : s.stage = .bound →
    (s.found = true ∧ FirstMatch s.cand true s.pos) ∨
      (s.found = false ∧ s.pos = 0 ∧ ∀ p, ¬ MatchAt s.cand true p)
  /-- From EXTRACT on the match is the first and 48 bits follow it, so no read leaves the row (R61). -/
  located : s.reached .extract →
    s.found = true ∧ FirstMatch s.cand true s.pos ∧ s.pos + 60 ≤ s.cand.nbits
  /-- Until EXTRACT the payload buffer is zero (R20, R122). -/
  unloaded : s.upTo .extract → s.buf = Payload.zero
  /-- From ZCHK on the buffer holds the payload (R122). -/
  loaded : s.reached .zchk → HoldsRow s.cand true (s.pos + 12) s.buf
  /-- From PSEL on identity and checksum are not both zero (R134). -/
  nonzero : s.reached .psel → zeroCollision s.buf = false
  /-- Until PSEL no polynomial is selected (R34). -/
  unselected : s.upTo .psel → s.poly = 0#16
  /-- From CRC on `POLY` is the channel's (R145). -/
  selected : s.reached .crc → s.poly = polyFor s.buf.chan
  /-- Until CRC no checksum is computed (R35). -/
  unsummed : s.upTo .crc → s.ckc = 0#16
  /-- From CMP on `CKC` is the payload's checksum (R148). -/
  summed : s.reached .cmp → s.ckc = crc16 s.poly s.buf.covered
  /-- In EVDEC the two checksums agree (R152). -/
  checked : s.stage = .evdec → s.buf.ckt = s.ckc
  /-- Nothing is accepted outside DONE (R161, R198). -/
  acceptedAtDone : s.accept = true → s.stage = .done
  /-- What is not accepted shows a zero record (R44, R198). -/
  quiet : s.accept = false → s.record = Record.zero
  /-- An accepted record is the payload's fields and the two event bits (R161, R162). -/
  recorded : s.accept = true →
    s.record = ⟨s.buf.ident, s.buf.chan, s.buf.evt, s.buf.evt.getLsbD 7, s.buf.evt.getLsbD 2⟩

/-- No step of any run from `s` faults. -/
def State.Safe (s : State) : Prop := ∀ n f, Host.Core.run Sys2Proof.core n s ≠ .fault f

end Sys2Proof.Machine
end

