-- ==== Sys2Proof/WellFormed.lean ====
section
/-! DEFINITION. What is well formed. Every operation is: a stage has no operand, and every value of a frame's
fields is legal (30_encoding.md R99: all 16 channels, all 2^20 identities, all 256 event bytes, all 2^16
checksums), which the fields' widths already say. The open parameters have bounds of their own (R7), and a
candidate outside them is not a candidate (93_implementation_defined.md U5). -/

namespace Sys2Proof

/-- Every stage and every frame of every class is legal (R99). -/
def Instr.wellFormed : Instr → Bool
  | .idle | .shape | .invert | .search | .bound | .extract => true
  | .zchk | .psel | .crc | .cmp | .evdec | .done => true
  | .frameCh0 _ _ _ | .frameCh1 _ _ _ | .frameCh2 _ _ _ | .frameCh3 _ _ _ => true
  | .frameCh4 _ _ _ | .frameCh5 _ _ _ | .frameCh6 _ _ _ | .frameCh7 _ _ _ => true
  | .frameCh8 _ _ _ | .frameCh9 _ _ _ | .frameChA _ _ _ | .frameChB _ _ _ => true
  | .frameChC _ _ _ | .frameChD _ _ _ | .frameChE _ _ _ | .frameChF _ _ _ => true

/-- The bounds R7 puts on the parameters: `MAX_ROW_BITS >= 60`, `MAX_ROWS >= 2`, or unbounded. -/
def Params.wellFormed (p : Params) : Bool :=
  (match p.maxRowBits with | none => true | some n => decide (60 ≤ n)) &&
  (match p.maxRows with | none => true | some n => decide (2 ≤ n))

/-- A candidate of `rows` rows whose row 0 has `nbits` bits is within the parameters (R7, R41, U5). -/
def Params.admits (p : Params) (rows nbits : Nat) : Bool :=
  (match p.maxRowBits with | none => true | some n => decide (nbits ≤ n)) &&
  (match p.maxRows with | none => true | some n => decide (rows ≤ n))

end Sys2Proof
end

