-- ==== Sys2Proof/Certificates/Slice0/Obligations.lean ====
section
/-! DEFINITION. The statements about the machine. Where a statement gives a whole next state as `{ s with … }`,
everything not named there is unchanged: that is its frame. The candidate row is the only memory outside the
registers, and it is the field `cand`. -/

open Sys2Proof Sys2Proof.Machine

/-! ### Reset, rest and the start of a transaction -/

/-- R50, R190 (the spec's decision D12): the state after reset, register by register, and the outputs it gives.
The values of the host's ports in it are the model's choice (log entry 2) and are not stated. -/
def Obligations.ResetClearsBlockInIdle : Prop :=
  State.reset.stage = .idle ∧ State.reset.buf = ⟨0, 0, 0, 0, 0, 0⟩ ∧ State.reset.pol = false ∧
  State.reset.found = false ∧ State.reset.pos = 0 ∧ State.reset.poly = 0x0000 ∧ State.reset.ckc = 0x0000 ∧
  State.reset.accept = false ∧ State.reset.oId = 0 ∧ State.reset.oChan = 0 ∧ State.reset.oEvt = 0 ∧
  State.reset.oState = false ∧ State.reset.oHb = false ∧
  State.reset.observe = ⟨false, false, none⟩ ∧
  (State.reset.buf.chan = 0 ∧ State.reset.buf.ident = 0 ∧ State.reset.buf.evt = 0 ∧ State.reset.buf.ckt = 0)

/-- R190 (D12): reset applied at a step takes any state, a running transaction included, to IDLE with every other
register of the block zero; the host's ports and what the host does next stay as they are. -/
def Obligations.ResetAtAnyTime : Prop :=
  ∀ (s : State) (rest : List HostAct), s.host = .reset :: rest →
    step s = .next
      { s with
        stage := .idle, buf := ⟨0, 0, 0, 0, 0, 0⟩, pol := false, found := false, pos := 0, poly := 0, ckc := 0
        accept := false, oId := 0, oChan := 0, oEvt := 0, oState := false, oHb := false
        reason := none, host := rest }

/-- R130, R131, R136 (D13, D14): with `start == 1` IDLE and DONE clear every working and output register and go to
SHAPE; with `start == 0` they write nothing but their own stage. The ghost label is dropped at a start (log 5). -/
def Obligations.RestStagesHoldOrStart : Prop :=
  encode .idle = .stage 0b0000 ∧ encode .done = .stage 0b1011 ∧
  ∀ s : State,
    (s.start = false → exec .idle s = .next { s with stage := .idle } ∧
      exec .done s = .next { s with stage := .done }) ∧
    (s.start = true →
      exec .idle s = .next
        { s with
          buf := ⟨0, 0, 0, 0, 0, 0⟩, pol := false, found := false, pos := 0, poly := 0, ckc := 0
          accept := false, oId := 0, oChan := 0, oEvt := 0, oState := false, oHb := false
          reason := none, stage := .shape } ∧
      exec .done s = exec .idle s)

/-- R44, R136, R186 (D13): a block at rest whose host only waits with `start == 0` stays exactly as it is for any
number of steps, its result with it. -/
def Obligations.RestIsStable : Prop :=
  ∀ (n : Nat) (s : State), s.stage.atRest = true → s.start = false → s.host = [] →
    Host.Core.run Sys2Proof.core n s = .next s

/-! ### Encodings -/

/-- R95, R97 (the codes are the spec's decision D5, D21): the twelve codes written out, and the four reserved ones
refused by name. -/
def Obligations.StageCodesDecode : Prop :=
  decode (.stage 0b0000) = .ok .idle ∧ decode (.stage 0b0001) = .ok .shape ∧
  decode (.stage 0b0010) = .ok .invert ∧ decode (.stage 0b0011) = .ok .search ∧
  decode (.stage 0b0100) = .ok .bound ∧ decode (.stage 0b0101) = .ok .extract ∧
  decode (.stage 0b0110) = .ok .zchk ∧ decode (.stage 0b0111) = .ok .psel ∧
  decode (.stage 0b1000) = .ok .crc ∧ decode (.stage 0b1001) = .ok .cmp ∧
  decode (.stage 0b1010) = .ok .evdec ∧ decode (.stage 0b1011) = .ok .done ∧
  decode (.stage 0b1100) = .error (.reservedStage 12) ∧ decode (.stage 0b1101) = .error (.reservedStage 13) ∧
  decode (.stage 0b1110) = .error (.reservedStage 14) ∧ decode (.stage 0b1111) = .error (.reservedStage 15)

/-- Frames written out in 95_test_vectors.md (S1, S2, K3, X6, A11) decode to their class and fields, and a word
without the preamble (L8) is refused by name. -/
def Obligations.FrameWordsDecode : Prop :=
  decode (.frame 0xFFE812345808B86) = .ok (.frameCh8 0x12345 0x80 0x8B86) ∧
  decode (.frame 0xFFE212345801E10) = .ok (.frameCh2 0x12345 0x80 0x1E10) ∧
  decode (.frame 0xFFEA12345805E80) = .ok (.frameChA 0x12345 0x80 0x5E80) ∧
  decode (.frame 0xFFEFFFFFFFF8029) = .ok (.frameChF 0xFFFFF 0xFF 0x8029) ∧
  decode (.frame 0xFFE000000018005) = .ok (.frameCh0 0x00000 0x01 0x8005) ∧
  decode (.frame 0x7FE812345808B86) = .error (.noPreamble 0x7FE812345808B86)

/-- Decoding the bits of any operation, in row order, gives it back, every operand bit included. -/
def Obligations.DecodeBitsOfEncodedOperation : Prop :=
  ∀ i : Instr, i.wellFormed = true → decodeBits (encodeBits i) = .ok i ∧ decode (encode i) = .ok i

/-- Each word has one meaning: what decodes to an operation is that operation's encoding. R99: sixty bits are a frame
of some class exactly when the first twelve are the preamble, whatever the other 48 hold. -/
def Obligations.EncodingIsUnique : Prop :=
  (∀ (w : Code) (i : Instr), decode w = .ok i → encode i = w) ∧
  ∀ f : FrameWord, (∃ i, decode (.frame f) = .ok i) ↔ ∀ n, n < 12 → f.getMsbD n = decide (n < 11)

/-- The bit layout of a frame (the table of 30_encoding.md section 1, and the mask and match values of R89): bit
`n` of the row-order frame for each field, and the class's match value under preamble and channel mask. -/
def Obligations.FrameWordLayout : Prop :=
  ∀ (c : Channel) (d : Ident) (e : Byte) (k : Word16),
    ∃ f : FrameWord, encode (Instr.ofFrame c d e k) = .frame f ∧
      (∀ n, n < 11 → f.getMsbD n = true) ∧ f.getMsbD 11 = false ∧
      (∀ n, n < 4 → f.getMsbD (12 + n) = c.getMsbD n) ∧
      (∀ n, n < 20 → f.getMsbD (16 + n) = d.getMsbD n) ∧
      (∀ n, n < 8 → f.getMsbD (36 + n) = e.getMsbD n) ∧
      (∀ n, n < 16 → f.getMsbD (44 + n) = k.getMsbD n) ∧
      f &&& 0xFFFF00000000000 = 0xFFE000000000000 ||| (c.setWidth 60 <<< 44)

/-! ### The row, the payload buffer and its views -/

/-- R62 (D6), R61: `RowBit(i)` is `RAW[i] xor POL` for `0 <= i < NBITS` and has no value anywhere else. -/
def Obligations.RowBitDefinedExactlyInsideRow : Prop :=
  ∀ (c : Candidate) (pol : Bool) (i : Nat),
    (∀ h : i < c.raw.length, rowBit c pol i = some (c.raw[i] ^^ pol)) ∧
    (c.raw.length ≤ i → rowBit c pol i = none)

/-- R63: inside the row `RowBits(a, n)` is the sum of its bits' weights, the first bit most significant. With any read
outside it has no value: R61's request to a model, and its rendering here is the model's choice (log entry 6). -/
def Obligations.RowBitsIsWeightedSum : Prop :=
  ∀ (c : Candidate) (pol : Bool) (a n : Nat), 1 ≤ n →
    (a + n ≤ c.raw.length →
      ∃ w : BitVec n, rowBits c pol a n = some w ∧
        w.toNat = ∑ j ∈ Finset.range n, ((c.raw.getD (a + j) false) ^^ pol).toNat * 2 ^ (n - 1 - j)) ∧
    (c.raw.length < a + n → rowBits c pol a n = none)

/-- R66's one store: a byte write replaces all of `B[k]` and no other byte. -/
def Obligations.PayloadWriteChangesOneByte : Prop :=
  ∀ (b : Payload) (k j : Fin 6) (v : Byte), (b.write k v).read j = if j = k then v else b.read j

/-- R21: the four views are the stated functions of the bytes, and together they cover all 48 bits exactly once:
every combination of field values is the views of exactly one buffer. -/
def Obligations.ViewsCoverBufferOnce : Prop :=
  (∀ b : Payload,
    b.chan.toNat = b.b0.toNat / 16 ∧
    b.ident.toNat = (b.b0.toNat % 16) * 65536 + b.b1.toNat * 256 + b.b2.toNat ∧
    b.evt = b.b3 ∧
    b.ckt.toNat = b.b4.toNat * 256 + b.b5.toNat) ∧
  ∀ (c : Channel) (d : Ident) (e : Byte) (k : Word16),
    ∃! b : Payload, b.chan = c ∧ b.ident = d ∧ b.evt = e ∧ b.ckt = k

/-- R124: after EXTRACT the views are the row's fields at their offsets from the match. -/
def Obligations.ViewsAreRowFieldsAfterExtract : Prop :=
  ∀ s t : State, exec .extract s = .next t →
    rowBits s.cand s.pol (s.pos + 12) 4 = some t.buf.chan ∧
    rowBits s.cand s.pol (s.pos + 16) 20 = some t.buf.ident ∧
    rowBits s.cand s.pol (s.pos + 36) 8 = some t.buf.evt ∧
    rowBits s.cand s.pol (s.pos + 44) 16 = some t.buf.ckt

/-! ### The stages -/

/-- R132: SHAPE goes on exactly with one row of at least 60 bits; otherwise it rejects, with a zero record. -/
def Obligations.ShapeRejectsUnlessOneLongRow : Prop :=
  encode .shape = .stage 0b0001 ∧
  ∀ s : State,
    (s.cand.rows = 1 ∧ 60 ≤ s.cand.nbits → exec .shape s = .next { s with stage := .invert }) ∧
    (s.cand.rows ≠ 1 ∨ s.cand.nbits < 60 →
      exec .shape s = .next
        { s with
          accept := false, oId := 0, oChan := 0, oEvt := 0, oState := false, oHb := false
          reason := some .shortBuffer, stage := .done })

/-- R110 (as a flag on the read path, the spec's decision D6): INVERT sets `POL` and nothing else, and from then on
every row read is the complement of the bit presented, over the whole row. -/
def Obligations.InvertComplementsWholeRow : Prop :=
  encode .invert = .stage 0b0010 ∧
  ∀ s : State,
    exec .invert s = .next { s with pol := true, stage := .search } ∧
    ∀ t, exec .invert s = .next t →
      ∀ i, ∀ h : i < s.cand.raw.length, rowBit t.cand t.pol i = some (!s.cand.raw[i])

/-- R112 (D7): SEARCH completes in every state and records the first occurrence of the preamble, or `FOUND == 0`
and `POS == 0` when it occurs nowhere in the row. -/
def Obligations.SearchRecordsFirstOccurrence : Prop :=
  encode .search = .stage 0b0011 ∧
  ∀ s : State,
    (∃ p, FirstMatch s.cand s.pol p ∧
      exec .search s = .next { s with found := true, pos := p, stage := .bound }) ∨
    ((∀ p, ¬ MatchAt s.cand s.pol p) ∧
      exec .search s = .next { s with found := false, pos := 0, stage := .bound })

/-- R113 item 4 (derived in the spec): the first match ends at the first 0 that at least eleven consecutive 1s
precede, so extra 1s before the preamble move nothing. -/
def Obligations.FirstMatchEndsAtFirstZeroAfterElevenOnes : Prop :=
  ∀ (c : Candidate) (pol : Bool) (p : Nat),
    FirstMatch c pol p ↔
      (rowBit c pol (p + 11) = some false ∧ ∀ j, j < 11 → rowBit c pol (p + j) = some true) ∧
      ∀ z, z < p + 11 → rowBit c pol z = some false → 11 ≤ z →
        ∃ j, j < 11 ∧ rowBit c pol (z - 11 + j) ≠ some true

/-- R120 (a stage of its own by the spec's decision D8): BOUND rejects without a match or with fewer than 48 bits
after it, and otherwise goes on. -/
def Obligations.BoundRejectsMissingOrTruncated : Prop :=
  encode .bound = .stage 0b0100 ∧
  ∀ s : State,
    (s.found = false →
      exec .bound s = .next
        { s with
          accept := false, oId := 0, oChan := 0, oEvt := 0, oState := false, oHb := false
          reason := some .noPreamble, stage := .done }) ∧
    (s.found = true → s.cand.nbits - s.pos - 12 < 48 →
      exec .bound s = .next
        { s with
          accept := false, oId := 0, oChan := 0, oEvt := 0, oState := false, oHb := false
          reason := some .truncated, stage := .done }) ∧
    (s.found = true → 48 ≤ s.cand.nbits - s.pos - 12 → exec .bound s = .next { s with stage := .extract })

/-- R122, R64: with 48 bits after the preamble EXTRACT writes the whole buffer, payload bit `k` going to bit
`7 - (k mod 8)` of byte `k div 8`, and nothing else. -/
def Obligations.ExtractCopiesPayloadMsbFirst : Prop :=
  encode .extract = .stage 0b0101 ∧
  ∀ s : State, s.pos + 60 ≤ s.cand.nbits →
    ∃ b : Payload,
      exec .extract s = .next { s with buf := b, stage := .zchk } ∧
      ∀ k, ∀ h : k < 48,
        rowBit s.cand s.pol (s.pos + 12 + k) =
          some ((b.read ⟨k / 8, Nat.div_lt_of_lt_mul h⟩).getLsbD (7 - k % 8))

/-- R61 (the fault is the model's way to say that `RowBit` has no value there, log entry 6): EXTRACT stops when the
payload would not lie inside the row. No reachable state is such a state. -/
def Obligations.ExtractFaultsOutsideRow : Prop :=
  ∀ s : State, s.cand.nbits < s.pos + 60 → exec .extract s = .fault .rowReadOutOfRange

/-- R134: ZCHK rejects exactly when identity and transmitted checksum are both zero, byte by byte; and the check is
not redundant, since the checksums of R134's two payloads with that property match (derived in the spec, from R148). -/
def Obligations.ZchkRejectsExactlyZeroIdentityAndChecksum : Prop :=
  encode .zchk = .stage 0b0110 ∧
  (∀ s : State,
    (s.buf.b0 &&& 0x0F = 0 ∧ s.buf.b1 = 0 ∧ s.buf.b2 = 0 ∧ s.buf.b4 = 0 ∧ s.buf.b5 = 0 →
      exec .zchk s = .next
        { s with
          accept := false, oId := 0, oChan := 0, oEvt := 0, oState := false, oHb := false
          reason := some .zeroCollision, stage := .done }) ∧
    (¬ (s.buf.b0 &&& 0x0F = 0 ∧ s.buf.b1 = 0 ∧ s.buf.b2 = 0 ∧ s.buf.b4 = 0 ∧ s.buf.b5 = 0) →
      exec .zchk s = .next { s with stage := .psel })) ∧
  crc16 0x8005 [0x00, 0x00, 0x00, 0x00] = 0x0000 ∧ crc16 0x8005 [0xC0, 0x00, 0x00, 0x0F] = 0x0000

/-- R145, R88: PSEL writes `0x8050` for channels 2 and 10 and `0x8005` for every other one, and nothing else; the
sixteen classes' checksums all start from 0. -/
def Obligations.PselSelectsPolynomialByChannel : Prop :=
  encode .psel = .stage 0b0111 ∧
  (∀ s : State,
    exec .psel s = .next
      { s with
        poly := if s.buf.b0.toNat / 16 = 2 ∨ s.buf.b0.toNat / 16 = 10 then 0x8050 else 0x8005
        stage := .crc }) ∧
  Config.fpl.crcInit = 0x0000

/-- R148 (the direct form, the spec's decision D9): CRC writes the checksum of `B[0..3]` under `POLY` and nothing
else; byte by byte, the byte enters the high half of the register and eight shifts follow, each XORing the
polynomial in when the bit shifted out of bit 15 was 1. -/
def Obligations.CrcStageComputesChecksum : Prop :=
  encode .crc = .stage 0b1000 ∧
  (∀ s : State,
    exec .crc s = .next
      { s with ckc := crc16 s.poly [s.buf.b0, s.buf.b1, s.buf.b2, s.buf.b3], stage := .cmp }) ∧
  (∀ (p r : Word16) (b : Byte),
    crcByte p r b = (crcShift p)^[8] (r ^^^ (b.setWidth 16 <<< 8))) ∧
  (∀ p r : Word16,
    crcShift p r = if r.getLsbD 15 then (r <<< 1) ^^^ p else r <<< 1) ∧
  ∀ (p : Word16) (b0 b1 b2 b3 : Byte),
    crc16 p [b0, b1, b2, b3] = crcByte p (crcByte p (crcByte p (crcByte p 0x0000 b0) b1) b2) b3

/-- R152: CMP goes on exactly when all 16 bits agree; otherwise it rejects, with a zero record. -/
def Obligations.CmpAcceptsOnlyEqualChecksums : Prop :=
  encode .cmp = .stage 0b1001 ∧
  ∀ s : State,
    (s.buf.b4.toNat * 256 + s.buf.b5.toNat = s.ckc.toNat → exec .cmp s = .next { s with stage := .evdec }) ∧
    (s.buf.b4.toNat * 256 + s.buf.b5.toNat ≠ s.ckc.toNat →
      exec .cmp s = .next
        { s with
          accept := false, oId := 0, oChan := 0, oEvt := 0, oState := false, oHb := false
          reason := some .crcMismatch, stage := .done })

/-- R160 (with the writes of `accept()`, R161): EVDEC accepts in every state; the record is identity, channel and
event byte, with event bits 7 and 2 as the flags. -/
def Obligations.EvdecLoadsRecordAndAccepts : Prop :=
  encode .evdec = .stage 0b1010 ∧
  ∀ s : State,
    exec .evdec s = .next
      { s with
        oId := s.buf.ident, oChan := s.buf.chan, oEvt := s.buf.b3
        oState := s.buf.b3.getLsbD 7, oHb := s.buf.b3.getLsbD 2
        accept := true, stage := .done }

/-- R98: every event byte is accepted; the six reserved event bits are echoed, have no effect on the flags, and are
part of the checksum's input (flipping one changes the checksum under either polynomial). -/
def Obligations.ReservedEventBitsEchoed : Prop :=
  (∀ s : State, ∃ t, exec .evdec s = .next t ∧ t.accept = true ∧ t.oEvt = s.buf.b3) ∧
  (∀ (s s' t t' : State), s.buf.b3 &&& 0x84 = s'.buf.b3 &&& 0x84 →
    exec .evdec s = .next t → exec .evdec s' = .next t' → t.oState = t'.oState ∧ t.oHb = t'.oHb) ∧
  ∀ (b0 b1 b2 b3 : Byte) (n : Fin 8) (p : Word16), n ≠ 7 → n ≠ 2 → p = 0x8005 ∨ p = 0x8050 →
    crc16 p [b0, b1, b2, b3 ^^^ (1#8 <<< n.val)] ≠ crc16 p [b0, b1, b2, b3]

/-! ### The checksum -/

/-- R149, bit-serial form (derived in the spec): feeding the 32 message bits one by one, the feedback being bit 15
xor the message bit, gives the same checksum. -/
def Obligations.ChecksumBitSerialForm : Prop :=
  ∀ (p : Word16) (b0 b1 b2 b3 : Byte),
    crc16 p [b0, b1, b2, b3] =
      (List.range 32).foldl
        (fun (r : Word16) (t : Nat) =>
          if r.getLsbD 15 != (b0 ++ b1 ++ b2 ++ b3).getMsbD t then (r <<< 1) ^^^ p else r <<< 1)
        0x0000#16

/-- R149, polynomial form (derived in the spec): over GF(2), the message times `x^16` is a multiple of the
generator `x^16 + POLY(x)` plus the checksum, which has degree below 16, so it is the remainder. -/
def Obligations.ChecksumIsPolynomialRemainder : Prop :=
  ∀ (p : Word16) (b0 b1 b2 b3 : Byte),
    ∃ q : Polynomial (ZMod 2),
      (∑ t ∈ Finset.range 32,
          if (b0 ++ b1 ++ b2 ++ b3).getMsbD t then (Polynomial.X : Polynomial (ZMod 2)) ^ (31 - t) else 0) *
          Polynomial.X ^ 16 =
        q * (Polynomial.X ^ 16 +
            ∑ n ∈ Finset.range 16, if p.getLsbD n then (Polynomial.X : Polynomial (ZMod 2)) ^ n else 0) +
          ∑ n ∈ Finset.range 16,
            if (crc16 p [b0, b1, b2, b3]).getLsbD n then (Polynomial.X : Polynomial (ZMod 2)) ^ n else 0

/-- R150 item 2 (derived in the spec): the checksum is linear, for every polynomial. -/
def Obligations.ChecksumIsLinear : Prop :=
  ∀ (p : Word16) (a0 a1 a2 a3 b0 b1 b2 b3 : Byte),
    crc16 p [a0 ^^^ b0, a1 ^^^ b1, a2 ^^^ b2, a3 ^^^ b3] =
      crc16 p [a0, a1, a2, a3] ^^^ crc16 p [b0, b1, b2, b3] ∧
    crc16 p [0x00, 0x00, 0x00, 0x00] = 0x0000

/-- R150 items 3 and 4 (derived in the spec): the unit values, and the syndromes of the first and last message bit
of each byte under both polynomials. -/
def Obligations.ChecksumUnitValuesAndSyndromes : Prop :=
  crc16 0x8005 [0x00, 0x00, 0x00, 0x80] = 0x8303 ∧ crc16 0x8050 [0x00, 0x00, 0x00, 0x80] = 0xB030 ∧
  crc16 0x8005 [0x00, 0x00, 0x00, 0xFF] = 0x0202 ∧ crc16 0x8050 [0x00, 0x00, 0x00, 0xFF] = 0x2020 ∧
  crc16 0x8005 [0x00, 0x00, 0x00, 0x01] = 0x8005 ∧ crc16 0x8050 [0x00, 0x00, 0x00, 0x01] = 0x8050 ∧
  crc16 0x8005 [0x80, 0x00, 0x00, 0x00] = 0x803F ∧ crc16 0x8050 [0x80, 0x00, 0x00, 0x00] = 0x4090 ∧
  crc16 0x8005 [0x01, 0x00, 0x00, 0x00] = 0x9403 ∧ crc16 0x8050 [0x01, 0x00, 0x00, 0x00] = 0x87B0 ∧
  crc16 0x8005 [0x00, 0x80, 0x00, 0x00] = 0x8A03 ∧ crc16 0x8050 [0x00, 0x80, 0x00, 0x00] = 0x83F0 ∧
  crc16 0x8005 [0x00, 0x01, 0x00, 0x00] = 0x8017 ∧ crc16 0x8050 [0x00, 0x01, 0x00, 0x00] = 0x9430 ∧
  crc16 0x8005 [0x00, 0x00, 0x80, 0x00] = 0x8009 ∧ crc16 0x8050 [0x00, 0x00, 0x80, 0x00] = 0x8A30 ∧
  crc16 0x8005 [0x00, 0x00, 0x01, 0x00] = 0x8603 ∧ crc16 0x8050 [0x00, 0x00, 0x01, 0x00] = 0xE030

/-- R150 item 5 (derived in the spec): under `0x8050` the low four bits of the checksum are 0, so a vendor-family
frame with another low nibble is never accepted. -/
def Obligations.VendorChecksumLowNibbleZero : Prop :=
  (∀ b0 b1 b2 b3 : Byte, crc16 0x8050 [b0, b1, b2, b3] &&& 0x000F = 0) ∧
  ∀ (c : Candidate) (r : Record), decodeCandidate c = .accepted r → r.chan = 0x2 ∨ r.chan = 0xA →
    ∀ p, FirstMatch c true p → rowBits c true (p + 56) 4 = some 0

/-! ### Frames and whole transactions -/

/-- R140, R88: a frame of any class that stands first in the candidate, started at rest, ends in DONE with the
outcome its fields determine under its class's polynomial, and with every working register as the stages leave
it. The whole transaction is one step of the model (the spec's decision D5, log entry 3). -/
def Obligations.FrameOperationDecodesItsFields : Prop :=
  ∀ (c : Channel) (d : Ident) (e : Byte) (k : Word16) (s : State) (p : Nat),
    s.stage.atRest = true → s.start = true →
    s.cand.rows = 1 → FirstMatch s.cand true p → rowBits s.cand true p 60 = some (frameWord c d e k) →
    ∃ b : Payload, b.chan = c ∧ b.ident = d ∧ b.evt = e ∧ b.ckt = k ∧
      (d = 0 ∧ k = 0 →
        exec (Instr.ofFrame c d e k) s = .next
          { s with
            stage := .done, buf := b, pol := true, found := true, pos := p, poly := 0, ckc := 0
            accept := false, oId := 0, oChan := 0, oEvt := 0, oState := false, oHb := false
            reason := some .zeroCollision }) ∧
      ∀ poly ckc : Word16,
        poly = (if c = 0x2 ∨ c = 0xA then 0x8050 else 0x8005) → ckc = crc16 poly [b.b0, b.b1, b.b2, b.b3] →
        ¬ (d = 0 ∧ k = 0) →
        (k ≠ ckc →
          exec (Instr.ofFrame c d e k) s = .next
            { s with
              stage := .done, buf := b, pol := true, found := true, pos := p, poly := poly, ckc := ckc
              accept := false, oId := 0, oChan := 0, oEvt := 0, oState := false, oHb := false
              reason := some .crcMismatch }) ∧
        (k = ckc →
          exec (Instr.ofFrame c d e k) s = .next
            { s with
              stage := .done, buf := b, pol := true, found := true, pos := p, poly := poly, ckc := ckc
              accept := true, oId := d, oChan := c, oEvt := e, oState := e.getLsbD 7, oHb := e.getLsbD 2
              reason := none })

/-- R138, R140: a frame operation started on a candidate in which no frame fits is rejected where the stages reject
it: by the shape, for want of a preamble, or with too few bits after it; the working registers are as the stages
before the rejection leave them. A step fetches no frame there (log entry 3); this says what the operation does. -/
def Obligations.FrameOperationRejectsWhereNoFrameFits : Prop :=
  ∀ (c : Channel) (d : Ident) (e : Byte) (k : Word16) (s : State),
    s.stage.atRest = true → s.start = true →
    (s.cand.rows ≠ 1 ∨ s.cand.nbits < 60 →
      exec (Instr.ofFrame c d e k) s = .next
        { s with
          stage := .done, buf := ⟨0, 0, 0, 0, 0, 0⟩, pol := false, found := false, pos := 0, poly := 0, ckc := 0
          accept := false, oId := 0, oChan := 0, oEvt := 0, oState := false, oHb := false
          reason := some .shortBuffer }) ∧
    (s.cand.rows = 1 → 60 ≤ s.cand.nbits → (∀ p, ¬ MatchAt s.cand true p) →
      exec (Instr.ofFrame c d e k) s = .next
        { s with
          stage := .done, buf := ⟨0, 0, 0, 0, 0, 0⟩, pol := true, found := false, pos := 0, poly := 0, ckc := 0
          accept := false, oId := 0, oChan := 0, oEvt := 0, oState := false, oHb := false
          reason := some .noPreamble }) ∧
    ∀ p, s.cand.rows = 1 → 60 ≤ s.cand.nbits → FirstMatch s.cand true p → s.cand.nbits < p + 60 →
      exec (Instr.ofFrame c d e k) s = .next
        { s with
          stage := .done, buf := ⟨0, 0, 0, 0, 0, 0⟩, pol := true, found := true, pos := p, poly := 0, ckc := 0
          accept := false, oId := 0, oChan := 0, oEvt := 0, oState := false, oHb := false
          reason := some .truncated }

/-- R197 (D13), as the model renders it for a whole frame (log entry 3): where `start == 1` is not sampled the
frame does not start, and the block does what its own stage does. -/
def Obligations.FrameNotStartedLeavesBlockToItsStage : Prop :=
  ∀ (c : Channel) (d : Ident) (e : Byte) (k : Word16) (s : State),
    s.stage.atRest = false ∨ s.start = false →
    exec (Instr.ofFrame c d e k) s = exec (Instr.ofStage s.stage) s

/-- R141 (derived in the spec): from rest with `start == 1` and a candidate held stable, stage steps reach DONE
after the start action and at most ten more, every earlier state being busy, and the result port is then exactly
what `DECODE` of the candidate says. -/
def Obligations.StagesComputeDecode : Prop :=
  ∀ s : State, s.stage.atRest = true → s.start = true → s.host = [] → s.grain = .stage →
    ∃ n t, n ≤ 10 ∧ Host.Core.run Sys2Proof.core (n + 1) s = .next t ∧ t.stage = .done ∧ t.cand = s.cand ∧
      (t.accept, t.record) = (decodeCandidate s.cand).port ∧
      ∀ m u, m < n → Host.Core.run Sys2Proof.core (m + 1) s = .next u → u.busy = true

/-- D5, R141: the frame operation of the frame that a candidate carries gives exactly the state that the stages give,
and so does the step that fetches it. -/
def Obligations.FrameOperationEqualsStages : Prop :=
  ∀ (s : State) (f : FrameWord) (i : Instr),
    s.stage.atRest = true → s.start = true → s.host = [] → s.grain = .stage →
    locateFrame s.cand = some (some f) → decode (.frame f) = .ok i →
    ∃ n t, n ≤ 10 ∧ exec i s = .next t ∧ t.stage = .done ∧
      Host.Core.run Sys2Proof.core (n + 1) s = .next t ∧
      step { s with grain := .transaction } = .next { t with grain := .transaction }

/-- R142: the document's testable properties. (1) Short or multi-row candidates: not recognized, and in the run no
bit is inverted and nothing is extracted. (2) Identity and checksum both zero: not recognized. (3) The checksum
stage run again on its result changes nothing. (4) A check that rejects answers an ordinary next state. -/
def Obligations.DocumentedDecodeProperties : Prop :=
  (∀ c : Candidate, c.rows ≠ 1 ∨ c.nbits < 60 →
    decodeCandidate c = .notRecognized ∧
    ∀ s : State, s.cand = c → s.stage.atRest = true → s.start = true → s.host = [] → s.grain = .stage →
      ∃ t, Host.Core.run Sys2Proof.core 2 s = .next t ∧ t.observe = ⟨false, true, some (false, Record.zero)⟩ ∧
        t.pol = false ∧ t.buf = ⟨0, 0, 0, 0, 0, 0⟩) ∧
  (∀ (c : Candidate) (p : Nat), FirstMatch c true p →
    rowBits c true (p + 16) 20 = some 0 → rowBits c true (p + 44) 16 = some 0 →
    decodeCandidate c = .notRecognized) ∧
  (∀ s t : State, exec .crc s = .next t → exec .crc t = .next t) ∧
  ∀ s : State, ∀ i ∈ [Instr.shape, Instr.bound, Instr.zchk, Instr.cmp], ∃ t, exec i s = .next t

/-- R162: the record of an accepted candidate is its frame's fields, `O_STATE` and `O_HB` being frame bits 36 and
41 and bits 7 and 2 of `O_EVT`. -/
def Obligations.AcceptedRecordIsFrameFields : Prop :=
  ∀ (c : Candidate) (r : Record) (p : Nat), decodeCandidate c = .accepted r → FirstMatch c true p →
    rowBits c true (p + 16) 20 = some r.ident ∧ rowBits c true (p + 12) 4 = some r.chan ∧
    rowBits c true (p + 36) 8 = some r.event ∧
    rowBit c true (p + 36) = some r.state ∧ rowBit c true (p + 41) = some r.heartbeat ∧
    r.state = r.event.getLsbD 7 ∧ r.heartbeat = r.event.getLsbD 2

/-- R82, U9: the outcome depends on the row only through the frame at the first match: two one-row candidates whose
first matches begin the same 60 bits have the same outcome, wherever the frame stands and whatever surrounds it. -/
def Obligations.OutcomeDependsOnlyOnFirstFrame : Prop :=
  ∀ (c c' : Candidate) (p p' : Nat), c.rows = 1 → c'.rows = 1 → FirstMatch c true p → FirstMatch c' true p' →
    p + 60 ≤ c.nbits → p' + 60 ≤ c'.nbits →
    (∀ j, j < 60 → rowBit c true (p + j) = rowBit c' true (p' + j)) →
    decodeCandidate c = decodeCandidate c'

/-- R154 (derived in the spec): flip any one payload bit of an accepted candidate and it is not recognized, also
where the flip moves the channel to the other family. -/
def Obligations.SingleBitCorruptionRejected : Prop :=
  ∀ (c : Candidate) (r : Record) (p k : Nat), decodeCandidate c = .accepted r → FirstMatch c true p → k < 48 →
    decodeCandidate { c with raw := c.raw.modify (p + 12 + k) not } = .notRecognized

/-- R171, R174: a started transaction reaches DONE after the start action and at most ten more steps, every earlier
state being busy, and the label with which it ends there is that of the first failing check in stage order, under the
exact condition of R171's table on the candidate. The label is the model's ghost data; that it is none exactly where the
transaction is accepted rests on its being dropped at the start (log entry 5). -/
def Obligations.RejectionLabelIsFirstFailingCheck : Prop :=
  ∀ s : State, s.stage.atRest = true → s.start = true → s.host = [] → s.grain = .stage →
    ∃ n t, n ≤ 10 ∧ Host.Core.run Sys2Proof.core (n + 1) s = .next t ∧ t.stage = .done ∧
      (∀ m u, m < n → Host.Core.run Sys2Proof.core (m + 1) s = .next u → u.busy = true) ∧
      (t.reason = some .shortBuffer ↔ s.cand.rows ≠ 1 ∨ s.cand.nbits < 60) ∧
      (t.reason = some .noPreamble ↔
        (s.cand.rows = 1 ∧ 60 ≤ s.cand.nbits) ∧ ∀ p, ¬ MatchAt s.cand true p) ∧
      (t.reason = some .truncated ↔
        (s.cand.rows = 1 ∧ 60 ≤ s.cand.nbits) ∧
          ∃ p, FirstMatch s.cand true p ∧ s.cand.nbits - p - 12 < 48) ∧
      (t.reason = some .zeroCollision ↔
        (s.cand.rows = 1 ∧ 60 ≤ s.cand.nbits) ∧
          ∃ p b, FirstMatch s.cand true p ∧ 48 ≤ s.cand.nbits - p - 12 ∧ HoldsRow s.cand true (p + 12) b ∧
            b.ident = 0 ∧ b.ckt = 0) ∧
      (t.reason = some .crcMismatch ↔
        (s.cand.rows = 1 ∧ 60 ≤ s.cand.nbits) ∧
          ∃ p b, FirstMatch s.cand true p ∧ 48 ≤ s.cand.nbits - p - 12 ∧ HoldsRow s.cand true (p + 12) b ∧
            ¬ (b.ident = 0 ∧ b.ckt = 0) ∧
            b.ckt ≠ crc16 (if b.chan = 0x2 ∨ b.chan = 0xA then 0x8050 else 0x8005) [b.b0, b.b1, b.b2, b.b3]) ∧
      (t.reason = none ↔ t.accept = true)

/-- R12: nothing survives a transaction: two blocks at rest, whatever their registers hold, that are started on the
same candidate by hosts that go on alike are in the same state after every later step. -/
def Obligations.NothingSurvivesATransaction : Prop :=
  ∀ (s s' : State), s.stage.atRest = true → s'.stage.atRest = true → s.start = true → s'.start = true →
    s.cand = s'.cand → s.host = [] → s'.host = [] → s.grain = s'.grain →
    ∀ n, Host.Core.run Sys2Proof.core (n + 1) s = Host.Core.run Sys2Proof.core (n + 1) s'

/-! ### Steps, the host and the invariant -/

/-- R30, R31, R76 (the step itself is the model's, log entries 3 and 4): after the host's action the step runs
exactly the operation that the fetched word decodes to; with no host action pending that is in the state as it
stands. In stage grain the word is the code in `STAGE`; in transaction grain, where a transaction starts, it is the 60
row bits from the first match on (R82). -/
def Obligations.StepRunsDecodedOperation : Prop :=
  ∀ (s t : State) (w : Code) (i : Instr), hostPhase s = .run t → fetchWord t = some w → decode w = .ok i →
    step s = exec i t ∧ (s.host = [] → t = s) ∧
    (s.grain = .stage → w = .stage t.stage.code ∧ i = Instr.ofStage t.stage) ∧
    (s.grain = .transaction → t.stage.atRest = true → t.start = true → t.cand.rows = 1 →
      ∀ p f, FirstMatch t.cand true p → rowBits t.cand true p 60 = some f → w = .frame f)

/-- What the host's action changes before the operation runs: nothing, `start`, or `start` and the candidate; never
a register of the block. -/
def Obligations.HostActsDriveOnlyPorts : Prop :=
  ∀ (s : State) (rest : List HostAct) (b : Bool) (c : Candidate),
    (s.host = .wait :: rest → hostPhase s = .run { s with host := rest }) ∧
    (s.host = .drive b :: rest → hostPhase s = .run { s with start := b, host := rest }) ∧
    (s.host = .present c b :: rest → s.stage.atRest = true ∨ c = s.cand →
      hostPhase s = .run { s with cand := c, start := b, host := rest }) ∧
    (s.host = .present c b :: rest → s.stage.atRest = false → c ≠ s.cand →
      step s = .refused .candidateChanged)

/-- In every state there is a word to fetch, and it decodes: looking for the candidate's frame never takes a read
outside the row (R61), also on a row that is truncated, and no step is refused for want of an operation (R97: the
reserved codes are never held; R170). What a step looks for and when are the model's (log entries 3 and 6). -/
def Obligations.EveryFetchDecodes : Prop :=
  ∀ s : State, ∃ w i, fetchWord s = some w ∧ decode w = .ok i

/-- How a word comes to run (log entry 7): placed in a state, any operation of the table is what the next step
runs, in the state in which it was placed. -/
def Obligations.PlacedWordRunsNext : Prop :=
  (∀ (s : State) (st : Stage),
    step (s.withFetchWord 8 st.code.toNat) = exec (Instr.ofStage st) (s.withFetchWord 8 st.code.toNat)) ∧
  ∀ (s : State) (c : Channel) (d : Ident) (e : Byte) (k : Word16),
    step (s.withFetchWord 64 (frameWord c d e k).toNat) =
      exec (Instr.ofFrame c d e k) (s.withFetchWord 64 (frameWord c d e k).toNat)

/-- R138 (D5): the sequencer makes the table's transitions and no others; a stage of rest starts exactly when
`start == 1`; and a transaction that ends is either accepted or shows a zero record. -/
def Obligations.SequencerTransitionTable : Prop :=
  ∀ (s t : State), exec (Instr.ofStage s.stage) s = .next t →
    (s.stage, t.stage) ∈
      [(Stage.idle, Stage.idle), (.idle, .shape), (.shape, .invert), (.shape, .done), (.invert, .search),
       (.search, .bound), (.bound, .done), (.bound, .extract), (.extract, .zchk), (.zchk, .done), (.zchk, .psel),
       (.psel, .crc), (.crc, .cmp), (.cmp, .done), (.cmp, .evdec), (.evdec, .done), (.done, .done),
       (.done, .shape)] ∧
    (s.stage.atRest = true → (t.stage = .shape ↔ s.start = true)) ∧
    (s.stage.atRest = false → t.stage = .done → t.accept = true ∨ t.record = Record.zero ∧ t.accept = false)

/-- R42, R197 (D13): in a running transaction `start` is not looked at: the stage does the same with either level. -/
def Obligations.StartIgnoredWhileBusy : Prop :=
  ∀ (s t : State) (b : Bool), s.stage.atRest = false → exec (Instr.ofStage s.stage) s = .next t →
    exec (Instr.ofStage s.stage) { s with start := b } = .next { t with start := b }

/-- R41, R66, R196: no operation of any kind writes the candidate, `start`, or the host's script. -/
def Obligations.CandidateNeverWritten : Prop :=
  ∀ (i : Instr) (s t : State), exec i s = .next t →
    t.cand = s.cand ∧ t.start = s.start ∧ t.host = s.host ∧ t.grain = s.grain

/-- R20, R32 to R35: a working register changes only in the stage that writes it, or when it is cleared by a start.
Stage operations only; a whole frame writes them all. -/
def Obligations.WorkingRegistersHaveOneWriter : Prop :=
  ∀ (st : Stage) (s t : State), exec (Instr.ofStage st) s = .next t →
    (st.atRest = true ∧ s.start = true) ∨
    ((st ≠ .extract → t.buf = s.buf) ∧ (st ≠ .invert → t.pol = s.pol) ∧
     (st ≠ .search → t.found = s.found ∧ t.pos = s.pos) ∧ (st ≠ .psel → t.poly = s.poly) ∧
     (st ≠ .crc → t.ckc = s.ckc) ∧ (st ≠ .evdec → t.accept = true → s.accept = true))

/-- The invariant holds at reset. -/
def Obligations.InvariantHoldsAtReset : Prop := State.reset.Inv

/-- Every step keeps the invariant, whatever the host does and in either grain. -/
def Obligations.StepKeepsInvariant : Prop :=
  ∀ s t : State, s.Inv → step s = .next t → t.Inv

/-- R61, R170: from a state that meets the invariant no run ever faults: no read leaves the row, neither one a stage
makes nor one that a step makes to fetch a frame. -/
def Obligations.NoRunFaults : Prop :=
  ∀ s : State, s.Inv → s.Safe

/-- R188 (derived in the spec): a running transaction reaches DONE within ten steps, its host waiting. -/
def Obligations.RunningTransactionEnds : Prop :=
  ∀ s : State, s.Inv → s.stage.atRest = false → s.host = [] →
    ∃ n t, n ≤ 10 ∧ Host.Core.run Sys2Proof.core n s = .next t ∧ t.stage = .done

/-- What the host observes, in every state (R43, R44, R47: the spec's decisions D1, D10, D26): `busy` and `done` as the
stage says, and the result port exactly while `done == 1`. R172: after any rejection it sees `done == 1`, `ACCEPT == 0`
and a zero record, the same for all causes. After an acceptance it sees `ACCEPT == 1` and the payload's fields. R198
(derived in the spec): before DONE the registers behind the port are zero. -/
def Obligations.RejectionsIndistinguishable : Prop :=
  (∀ s : State,
    (s.observe.busy = true ↔ s.stage ≠ .idle ∧ s.stage ≠ .done) ∧
    (s.observe.done = true ↔ s.stage = .done) ∧
    (s.stage = .done → s.observe.result = some (s.accept, ⟨s.oId, s.oChan, s.oEvt, s.oState, s.oHb⟩)) ∧
    (s.stage ≠ .done → s.observe.result = none)) ∧
  ∀ s : State, s.Inv →
    (s.stage = .done → s.accept = false → s.observe = ⟨false, true, some (false, Record.zero)⟩) ∧
    (s.stage ≠ .done → s.accept = false ∧ s.record = Record.zero ∧ s.observe.result = none) ∧
    (s.accept = true →
      s.observe =
        ⟨false, true,
          some (true, ⟨s.buf.ident, s.buf.chan, s.buf.b3, s.buf.b3.getLsbD 7, s.buf.b3.getLsbD 2⟩)⟩)

/-- R37 (D10): two states that differ only in the ghost label behave alike and look alike. -/
def Obligations.GhostLabelIsNotRead : Prop :=
  ∀ (s : State) (r : Option Reason),
    { s with reason := r }.observe = s.observe ∧
    ∀ t, step s = .next t → ∃ r', step { s with reason := r } = .next { t with reason := r' }

/-- R7, R11 (D2, D3): for every implementation bound that admits the candidate, the offsets and counts of a running
transaction fit the registers' stated widths, and no offset sum of the stages passes `NBITS`. -/
def Obligations.OffsetsFitRegisterWidths : Prop :=
  ∀ (s : State) (maxBits maxRows : Nat), s.Inv → s.stage.atRest = false →
    Params.wellFormed ⟨some maxBits, some maxRows⟩ = true →
    Params.admits ⟨some maxBits, some maxRows⟩ s.cand.rows s.cand.nbits = true →
    s.cand.nbits < 2 ^ Params.widthOf maxBits ∧ s.pos < 2 ^ Params.widthOf maxBits ∧
    s.cand.rows < 2 ^ Params.widthOf maxRows ∧
    (s.found = true → s.pos + 12 ≤ s.cand.nbits) ∧
    (s.reached .extract → s.pos + 12 + 48 ≤ s.cand.nbits)

/-- R164: the labels the host applies to the two flags. -/
def Obligations.HostLabelsOfFlags : Prop :=
  stateLabel true = "open" ∧ stateLabel false = "closed" ∧ heartbeatLabel true = "yes" ∧ heartbeatLabel false = "no"

/-- R184: instances share nothing: a step of one leaves every other as it was and is its own step, and steps of two
instances give the same in either order. -/
def Obligations.InstancesAreIndependent : Prop :=
  ∀ (bs : List State) (j k : Nat), j ≠ k →
    (stepInstance k bs)[j]? = bs[j]? ∧
    (∀ s t, bs[k]? = some s → step s = .next t → (stepInstance k bs)[k]? = some t) ∧
    stepInstance j (stepInstance k bs) = stepInstance k (stepInstance j bs)
end

