-- ==== Sys2Proof/Laws/Crc.lean ====
section
/-! SUPPORT. The checksum register, one shift and one byte at a time: linearity of the two, and the parity they
keep under a polynomial of odd weight (both of R6's are). -/

namespace Sys2Proof.Machine

theorem crc16_four (p : Word16) (b0 b1 b2 b3 : Byte) :
    crc16 p [b0, b1, b2, b3] = crcByte p (crcByte p (crcByte p (crcByte p 0#16 b0) b1) b2) b3 := by
  simp [crc16, Config.fpl]

theorem crcShift_xor (p r q : Word16) : crcShift p (r ^^^ q) = crcShift p r ^^^ crcShift p q := by
  have h : (r ^^^ q) <<< 1 = (r <<< 1) ^^^ (q <<< 1) := by
    apply BitVec.eq_of_getLsbD_eq
    intro i hi
    by_cases h0 : i < 1 <;> simp [hi, h0]
  unfold crcShift
  rw [BitVec.msb_xor, h]
  cases r.msb <;> cases q.msb <;> simp
  · rw [BitVec.xor_assoc]
  · rw [BitVec.xor_assoc, BitVec.xor_assoc, BitVec.xor_comm p]
  · rw [BitVec.xor_assoc (r <<< 1), ← BitVec.xor_assoc p, BitVec.xor_comm p, BitVec.xor_assoc, BitVec.xor_self,
      BitVec.xor_zero]

theorem crcShifts_xor (p : Word16) (n : Nat) (r q : Word16) :
    crcShifts p n (r ^^^ q) = crcShifts p n r ^^^ crcShifts p n q := by
  induction n generalizing r q with
  | zero => rfl
  | succ n ih => simp only [crcShifts, crcShift_xor, ih]

theorem highHalf_xor (a b : Byte) :
    (a ^^^ b).zeroExtend 16 <<< 8 = (a.zeroExtend 16 <<< 8) ^^^ ((b.zeroExtend 16 : Word16) <<< 8) := by
  apply BitVec.eq_of_getLsbD_eq
  intro i hi
  by_cases h0 : i < 8 <;> simp [BitVec.zeroExtend, hi, h0]

theorem crcByte_xor (p r q : Word16) (a b : Byte) :
    crcByte p (r ^^^ q) (a ^^^ b) = crcByte p r a ^^^ crcByte p q b := by
  unfold crcByte
  rw [← crcShifts_xor, highHalf_xor, BitVec.xor_assoc r q, BitVec.xor_assoc r (a.zeroExtend 16 <<< 8),
    ← BitVec.xor_assoc q, ← BitVec.xor_assoc (a.zeroExtend 16 <<< 8), BitVec.xor_comm q]

/-- The exclusive or of the low `n` bits of a word. -/
def parity {w : Nat} (v : BitVec w) : Nat → Bool
  | 0 => false
  | n + 1 => parity v n ^^ v.getLsbD n

theorem parity_xor {w : Nat} (u v : BitVec w) (n : Nat) :
    parity (u ^^^ v) n = (parity u n ^^ parity v n) := by
  induction n with
  | zero => rfl
  | succ n ih =>
    simp only [parity, ih, BitVec.getLsbD_xor]
    cases parity u n <;> cases parity v n <;> simp

theorem parity_shift_succ (v : Word16) (n : Nat) (h : n < 16) : parity (v <<< 1) (n + 1) = parity v n := by
  induction n with
  | zero => simp [parity]
  | succ n ih =>
    rw [parity, ih (by omega), parity, BitVec.getLsbD_shiftLeft, Nat.add_sub_cancel]
    simp only [h, decide_true, Bool.true_and, show ¬ n + 1 < 1 by omega, decide_false, Bool.not_false]

theorem parity_shift (v : Word16) : parity (v <<< 1) 16 = (parity v 16 ^^ v.msb) := by
  rw [parity_shift_succ v 15 (by omega), BitVec.msb_eq_getLsbD_last]
  simp [parity]

theorem parity_highHalf (b : Byte) : parity (b.zeroExtend 16 <<< 8 : Word16) 16 = parity b 8 := by
  simp [parity, BitVec.zeroExtend]

/-- A shift keeps the parity: what leaves at bit 15 comes back as an odd number of polynomial bits. -/
theorem parity_crcShift {p : Word16} (hp : parity p 16 = true) (r : Word16) :
    parity (crcShift p r) 16 = parity r 16 := by
  unfold crcShift
  cases h : r.msb <;> simp [parity_xor, parity_shift, h, hp]

theorem parity_crcByte {p : Word16} (hp : parity p 16 = true) (r : Word16) (b : Byte) :
    parity (crcByte p r b) 16 = (parity r 16 ^^ parity b 8) := by
  unfold crcByte
  rw [← parity_highHalf, ← parity_xor]
  generalize r ^^^ b.zeroExtend 16 <<< 8 = q
  have : ∀ n q, parity (crcShifts p n q) 16 = parity q 16 := by
    intro n
    induction n with
    | zero => intro q; rfl
    | succ n ih => intro q; rw [crcShifts, ih, parity_crcShift hp]
  exact this 8 q

theorem parity_polyFor (c : Channel) : parity (polyFor c) 16 = true := by
  revert c; decide

end Sys2Proof.Machine
end

