-- ==== Sys2Proof/Laws/Row.lean ====
section
/-! SUPPORT. What the row primitives answer: one bit, a field of bits, the search, the six byte loads; and reads
and writes of the payload buffer. -/

namespace Sys2Proof.Machine

variable {c : Candidate} {pol : Bool}

/-! One bit -/

theorem rowBit_eq_some_iff {i : Nat} {b : Bool} : rowBit c pol i = some b ↔ c.raw[i]? = some (b ^^ pol) := by
  unfold rowBit
  cases c.raw[i]? with
  | none => simp
  | some x => cases x <;> cases b <;> cases pol <;> simp

theorem rowBit_eq_none_iff {i : Nat} : rowBit c pol i = none ↔ c.nbits ≤ i := by
  unfold rowBit Candidate.nbits
  cases h : c.raw[i]? with
  | none => simpa using h
  | some x => simpa using (List.getElem?_eq_some_iff.1 h).1

theorem rowBit_lt {i : Nat} {b : Bool} (h : rowBit c pol i = some b) : i < c.nbits := by
  by_contra hn
  rw [rowBit_eq_none_iff.2 (by omega)] at h
  cases h

/-! A field of bits -/

theorem getMsbD_cons_succ {n : Nat} (b : Bool) (v : BitVec n) (j : Nat) :
    (BitVec.cons b v).getMsbD (j + 1) = v.getMsbD j := by
  by_cases h : j < n
  · simp only [BitVec.getMsbD_eq_getLsbD, BitVec.getLsbD_cons]
    rw [if_neg (by omega)]
    simp [h, show n - (j + 1) = n - 1 - j by omega]
  · simp [BitVec.getMsbD, h]

theorem getMsbD_cons_zero {n : Nat} (b : Bool) (v : BitVec n) : (BitVec.cons b v).getMsbD 0 = b := by
  rw [BitVec.getMsbD_eq_getLsbD, BitVec.getLsbD_cons]
  simp

/-- A field has the value `w` exactly when each of its bits, the first in the most significant place, has. -/
theorem rowBits_eq_some_iff {a n : Nat} {w : BitVec n} :
    rowBits c pol a n = some w ↔ ∀ j, j < n → rowBit c pol (a + j) = some (w.getMsbD j) := by
  induction n generalizing a with
  | zero => simp [rowBits, BitVec.eq_nil w]
  | succ n ih =>
    obtain ⟨b, v, rfl⟩ : ∃ (b : Bool) (v : BitVec n), w = BitVec.cons b v :=
      ⟨w.msb, w.setWidth n, (BitVec.cons_msb_setWidth w).symm⟩
    have hv := @ih (a + 1) v
    constructor
    · intro h j hj
      cases hb : rowBit c pol a with
      | none => simp [rowBits, hb] at h
      | some b' =>
        cases hw : rowBits c pol (a + 1) n with
        | none => simp [rowBits, hb, hw] at h
        | some v' =>
          simp only [rowBits, hb, hw, Option.some.injEq] at h
          have hb' : b' = b := by simpa using congrArg (fun x => x.msb) h
          have hv' : v' = v := by
            have := congrArg (fun x : BitVec (n + 1) => x.setWidth n) h
            simpa using this
          subst hb' hv'
          cases j with
          | zero => simpa using hb
          | succ j =>
            have := hv.1 hw j (by omega)
            simpa [Nat.add_comm, Nat.add_left_comm, Nat.add_assoc, getMsbD_cons_succ] using this
    · intro h
      have h0 : rowBit c pol a = some b := by simpa using h 0 (by omega)
      have h1 : rowBits c pol (a + 1) n = some v := by
        refine hv.2 fun j hj => ?_
        have := h (j + 1) (by omega)
        simpa [Nat.add_comm, Nat.add_left_comm, Nat.add_assoc, getMsbD_cons_succ] using this
      simp [rowBits, h0, h1]

theorem rowBits_eq_none_iff {a n : Nat} : rowBits c pol a n = none ↔ n ≠ 0 ∧ c.nbits < a + n := by
  induction n generalizing a with
  | zero => simp [rowBits]
  | succ n ih =>
    have hv := @ih (a + 1)
    cases hb : rowBit c pol a with
    | none =>
      have := rowBit_eq_none_iff.1 hb
      simp only [rowBits, hb, true_iff]
      omega
    | some b =>
      have hlt := rowBit_lt hb
      cases hw : rowBits c pol (a + 1) n with
      | none =>
        have := hv.1 hw
        simp only [rowBits, hb, hw, true_iff]
        omega
      | some w =>
        have : ¬ (n ≠ 0 ∧ c.nbits < a + 1 + n) := fun h => by rw [hv.2 h] at hw; cases hw
        simp only [rowBits, hb, hw]
        simp only [reduceCtorEq, false_iff]
        omega

theorem rowBits_isSome {a n : Nat} (h : a + n ≤ c.nbits) : ∃ w, rowBits c pol a n = some w := by
  cases hw : rowBits c pol a n with
  | some w => exact ⟨w, rfl⟩
  | none => have := rowBits_eq_none_iff.1 hw; omega

/-- A field is the concatenation of its two parts. -/
theorem rowBits_append {a m n : Nat} {u : BitVec m} {v : BitVec n}
    (hu : rowBits c pol a m = some u) (hv : rowBits c pol (a + m) n = some v) :
    rowBits c pol a (m + n) = some (u ++ v) := by
  rw [rowBits_eq_some_iff] at *
  intro j hj
  rw [BitVec.getMsbD_append]
  by_cases h : m ≤ j
  · have := hv (j - m) (by omega)
    simpa [h, show a + m + (j - m) = a + j by omega] using this
  · simpa [h] using hu j (by omega)

/-! The search -/

theorem matchAt_iff_rowBits {p : Nat} : MatchAt c pol p ↔ rowBits c pol p 12 = some Config.fpl.pre := by
  rw [rowBits_eq_some_iff]
  refine ⟨fun h => h.2, fun h => ⟨?_, h⟩⟩
  have := rowBit_lt (h 11 (by omega))
  omega

/-- Over offsets whose windows lie in the row, the search is the first hit of the list. -/
theorem searchFrom_eq_find {ps : List Nat} (h : ∀ p ∈ ps, p + 12 ≤ c.nbits) :
    searchFrom c pol ps = some (ps.find? fun p => decide (rowBits c pol p 12 = some Config.fpl.pre)) := by
  induction ps with
  | nil => rfl
  | cons p ps ih =>
    obtain ⟨w, hw⟩ := rowBits_isSome (c := c) (pol := pol) (h p (by simp))
    have := ih fun q hq => h q (by simp [hq])
    by_cases hp : w = Config.fpl.pre <;> simp [searchFrom, hw, hp, this]

theorem mem_searchOffsets {n p : Nat} : p ∈ searchOffsets n ↔ p + 12 ≤ n := by
  simp only [searchOffsets, List.mem_range, Config.fpl]
  omega

theorem search_found {p : Nat} (h : FirstMatch c pol p) :
    searchFrom c pol (searchOffsets c.nbits) = some (some p) := by
  rw [searchFrom_eq_find fun q hq => mem_searchOffsets.1 hq, searchOffsets]
  congr 1
  rw [List.find?_range_eq_some]
  refine ⟨by simpa using matchAt_iff_rowBits.1 h.1, mem_searchOffsets.2 h.1.1, fun q hq => ?_⟩
  have := mt matchAt_iff_rowBits.2 (h.2 q hq)
  simpa using this

theorem search_missing (h : ∀ p, ¬ MatchAt c pol p) :
    searchFrom c pol (searchOffsets c.nbits) = some none := by
  rw [searchFrom_eq_find fun q hq => mem_searchOffsets.1 hq]
  congr 1
  rw [List.find?_eq_none]
  intro q _
  have := mt matchAt_iff_rowBits.2 (h q)
  simpa using this

/-- The preamble occurs first somewhere, or nowhere. -/
theorem firstMatch_or_none (c : Candidate) (pol : Bool) :
    (∃ p, FirstMatch c pol p) ∨ ∀ p, ¬ MatchAt c pol p := by
  classical
  by_cases h : ∃ p, MatchAt c pol p
  · exact .inl ⟨Nat.find h, Nat.find_spec h, fun q hq => Nat.find_min h hq⟩
  · exact .inr fun p hp => h ⟨p, hp⟩

theorem firstMatch_unique {p q : Nat} (hp : FirstMatch c pol p) (hq : FirstMatch c pol q) : p = q := by
  rcases Nat.lt_trichotomy p q with h | h | h
  · exact absurd hp.1 (hq.2 p h)
  · exact h
  · exact absurd hq.1 (hp.2 q h)

/-! The payload buffer -/

theorem Payload.ext_read {a b : Payload} (h : ∀ k, a.read k = b.read k) : a = b := by
  obtain ⟨⟩ := a
  obtain ⟨⟩ := b
  have h0 := h 0; have h1 := h 1; have h2 := h 2; have h3 := h 3; have h4 := h 4; have h5 := h 5
  simp only [Payload.read] at h0 h1 h2 h3 h4 h5
  simp [h0, h1, h2, h3, h4, h5]

/-- What the buffer holds of the row is one buffer. -/
theorem holdsRow_unique {a : Nat} {b b' : Payload} (h : HoldsRow c pol a b) (h' : HoldsRow c pol a b') : b = b' :=
  Payload.ext_read fun k => by have := (h k).symm.trans (h' k); simpa using this

/-- The six loads succeed exactly when the 48 bits lie in the row, and then hold them, whatever stood there. -/
theorem loadBytes_some {a : Nat} (b : Payload) (h : a + 48 ≤ c.nbits) :
    ∃ b', loadBytes c pol a (List.finRange 6) b = some b' ∧ HoldsRow c pol a b' := by
  obtain ⟨v0, h0⟩ := rowBits_isSome (c := c) (pol := pol) (a := a + 8 * 0) (n := 8) (by omega)
  obtain ⟨v1, h1⟩ := rowBits_isSome (c := c) (pol := pol) (a := a + 8 * 1) (n := 8) (by omega)
  obtain ⟨v2, h2⟩ := rowBits_isSome (c := c) (pol := pol) (a := a + 8 * 2) (n := 8) (by omega)
  obtain ⟨v3, h3⟩ := rowBits_isSome (c := c) (pol := pol) (a := a + 8 * 3) (n := 8) (by omega)
  obtain ⟨v4, h4⟩ := rowBits_isSome (c := c) (pol := pol) (a := a + 8 * 4) (n := 8) (by omega)
  obtain ⟨v5, h5⟩ := rowBits_isSome (c := c) (pol := pol) (a := a + 8 * 5) (n := 8) (by omega)
  refine ⟨⟨v0, v1, v2, v3, v4, v5⟩, ?_, ?_⟩
  · rw [show List.finRange 6 = [0, 1, 2, 3, 4, 5] from rfl]
    simp only [loadBytes, Fin.isValue, Fin.val_zero, Fin.val_one, show ((2 : Fin 6) : Nat) = 2 from rfl,
      show ((3 : Fin 6) : Nat) = 3 from rfl, show ((4 : Fin 6) : Nat) = 4 from rfl,
      show ((5 : Fin 6) : Nat) = 5 from rfl, h0, h1, h2, h3, h4, h5, Payload.write]
  · intro k
    fin_cases k <;> assumption

theorem loadBytes_none {a : Nat} (b : Payload) (h : c.nbits < a + 48) :
    loadBytes c pol a (List.finRange 6) b = none := by
  have h5 : rowBits c pol (a + 8 * 5) 8 = none := rowBits_eq_none_iff.2 ⟨by omega, by omega⟩
  rw [show List.finRange 6 = [0, 1, 2, 3, 4, 5] from rfl]
  simp only [loadBytes, show ((5 : Fin 6) : Nat) = 5 from rfl, h5]
  repeat' split
  all_goals rfl

/-- A loaded buffer's bit `7 - k % 8` of byte `k / 8` is row bit `k` of the payload (R64). -/
theorem holdsRow_bit {a k : Nat} {b : Payload} (h : HoldsRow c pol a b) (hk : k < 48) :
    rowBit c pol (a + k) = some ((b.read ⟨k / 8, Nat.div_lt_of_lt_mul hk⟩).getLsbD (7 - k % 8)) := by
  have := rowBits_eq_some_iff.1 (h ⟨k / 8, Nat.div_lt_of_lt_mul hk⟩) (k % 8) (Nat.mod_lt _ (by omega))
  rw [show a + 8 * (k / 8) + k % 8 = a + k by omega] at this
  rw [this, BitVec.getMsbD_eq_getLsbD]
  simp [Nat.mod_lt]

end Sys2Proof.Machine
end

