-- ==== Sys2Proof/Laws/State.lean ====
section
/-! SUPPORT. One lemma for each field and each update of the state, so that no proof unfolds an update. -/

namespace Sys2Proof.Machine

variable (s : State)

/-! `goto` -/

@[simp] theorem State.goto_cand (st : Stage) : (s.goto st).cand = s.cand := rfl
@[simp] theorem State.goto_start (st : Stage) : (s.goto st).start = s.start := rfl
@[simp] theorem State.goto_stage (st : Stage) : (s.goto st).stage = st := rfl
@[simp] theorem State.goto_buf (st : Stage) : (s.goto st).buf = s.buf := rfl
@[simp] theorem State.goto_pol (st : Stage) : (s.goto st).pol = s.pol := rfl
@[simp] theorem State.goto_found (st : Stage) : (s.goto st).found = s.found := rfl
@[simp] theorem State.goto_pos (st : Stage) : (s.goto st).pos = s.pos := rfl
@[simp] theorem State.goto_poly (st : Stage) : (s.goto st).poly = s.poly := rfl
@[simp] theorem State.goto_ckc (st : Stage) : (s.goto st).ckc = s.ckc := rfl
@[simp] theorem State.goto_accept (st : Stage) : (s.goto st).accept = s.accept := rfl
@[simp] theorem State.goto_oId (st : Stage) : (s.goto st).oId = s.oId := rfl
@[simp] theorem State.goto_oChan (st : Stage) : (s.goto st).oChan = s.oChan := rfl
@[simp] theorem State.goto_oEvt (st : Stage) : (s.goto st).oEvt = s.oEvt := rfl
@[simp] theorem State.goto_oState (st : Stage) : (s.goto st).oState = s.oState := rfl
@[simp] theorem State.goto_oHb (st : Stage) : (s.goto st).oHb = s.oHb := rfl
@[simp] theorem State.goto_reason (st : Stage) : (s.goto st).reason = s.reason := rfl
@[simp] theorem State.goto_grain (st : Stage) : (s.goto st).grain = s.grain := rfl
@[simp] theorem State.goto_host (st : Stage) : (s.goto st).host = s.host := rfl

/-! `setPol` -/

@[simp] theorem State.setPol_cand (v : Bool) : (s.setPol v).cand = s.cand := rfl
@[simp] theorem State.setPol_start (v : Bool) : (s.setPol v).start = s.start := rfl
@[simp] theorem State.setPol_stage (v : Bool) : (s.setPol v).stage = s.stage := rfl
@[simp] theorem State.setPol_buf (v : Bool) : (s.setPol v).buf = s.buf := rfl
@[simp] theorem State.setPol_pol (v : Bool) : (s.setPol v).pol = v := rfl
@[simp] theorem State.setPol_found (v : Bool) : (s.setPol v).found = s.found := rfl
@[simp] theorem State.setPol_pos (v : Bool) : (s.setPol v).pos = s.pos := rfl
@[simp] theorem State.setPol_poly (v : Bool) : (s.setPol v).poly = s.poly := rfl
@[simp] theorem State.setPol_ckc (v : Bool) : (s.setPol v).ckc = s.ckc := rfl
@[simp] theorem State.setPol_accept (v : Bool) : (s.setPol v).accept = s.accept := rfl
@[simp] theorem State.setPol_oId (v : Bool) : (s.setPol v).oId = s.oId := rfl
@[simp] theorem State.setPol_oChan (v : Bool) : (s.setPol v).oChan = s.oChan := rfl
@[simp] theorem State.setPol_oEvt (v : Bool) : (s.setPol v).oEvt = s.oEvt := rfl
@[simp] theorem State.setPol_oState (v : Bool) : (s.setPol v).oState = s.oState := rfl
@[simp] theorem State.setPol_oHb (v : Bool) : (s.setPol v).oHb = s.oHb := rfl
@[simp] theorem State.setPol_reason (v : Bool) : (s.setPol v).reason = s.reason := rfl
@[simp] theorem State.setPol_grain (v : Bool) : (s.setPol v).grain = s.grain := rfl
@[simp] theorem State.setPol_host (v : Bool) : (s.setPol v).host = s.host := rfl

/-! `setMatch` -/

@[simp] theorem State.setMatch_cand (f : Bool) (p : Nat) : (s.setMatch f p).cand = s.cand := rfl
@[simp] theorem State.setMatch_start (f : Bool) (p : Nat) : (s.setMatch f p).start = s.start := rfl
@[simp] theorem State.setMatch_stage (f : Bool) (p : Nat) : (s.setMatch f p).stage = s.stage := rfl
@[simp] theorem State.setMatch_buf (f : Bool) (p : Nat) : (s.setMatch f p).buf = s.buf := rfl
@[simp] theorem State.setMatch_pol (f : Bool) (p : Nat) : (s.setMatch f p).pol = s.pol := rfl
@[simp] theorem State.setMatch_found (f : Bool) (p : Nat) : (s.setMatch f p).found = f := rfl
@[simp] theorem State.setMatch_pos (f : Bool) (p : Nat) : (s.setMatch f p).pos = p := rfl
@[simp] theorem State.setMatch_poly (f : Bool) (p : Nat) : (s.setMatch f p).poly = s.poly := rfl
@[simp] theorem State.setMatch_ckc (f : Bool) (p : Nat) : (s.setMatch f p).ckc = s.ckc := rfl
@[simp] theorem State.setMatch_accept (f : Bool) (p : Nat) : (s.setMatch f p).accept = s.accept := rfl
@[simp] theorem State.setMatch_oId (f : Bool) (p : Nat) : (s.setMatch f p).oId = s.oId := rfl
@[simp] theorem State.setMatch_oChan (f : Bool) (p : Nat) : (s.setMatch f p).oChan = s.oChan := rfl
@[simp] theorem State.setMatch_oEvt (f : Bool) (p : Nat) : (s.setMatch f p).oEvt = s.oEvt := rfl
@[simp] theorem State.setMatch_oState (f : Bool) (p : Nat) : (s.setMatch f p).oState = s.oState := rfl
@[simp] theorem State.setMatch_oHb (f : Bool) (p : Nat) : (s.setMatch f p).oHb = s.oHb := rfl
@[simp] theorem State.setMatch_reason (f : Bool) (p : Nat) : (s.setMatch f p).reason = s.reason := rfl
@[simp] theorem State.setMatch_grain (f : Bool) (p : Nat) : (s.setMatch f p).grain = s.grain := rfl
@[simp] theorem State.setMatch_host (f : Bool) (p : Nat) : (s.setMatch f p).host = s.host := rfl

/-! `setBuf` -/

@[simp] theorem State.setBuf_cand (b : Payload) : (s.setBuf b).cand = s.cand := rfl
@[simp] theorem State.setBuf_start (b : Payload) : (s.setBuf b).start = s.start := rfl
@[simp] theorem State.setBuf_stage (b : Payload) : (s.setBuf b).stage = s.stage := rfl
@[simp] theorem State.setBuf_buf (b : Payload) : (s.setBuf b).buf = b := rfl
@[simp] theorem State.setBuf_pol (b : Payload) : (s.setBuf b).pol = s.pol := rfl
@[simp] theorem State.setBuf_found (b : Payload) : (s.setBuf b).found = s.found := rfl
@[simp] theorem State.setBuf_pos (b : Payload) : (s.setBuf b).pos = s.pos := rfl
@[simp] theorem State.setBuf_poly (b : Payload) : (s.setBuf b).poly = s.poly := rfl
@[simp] theorem State.setBuf_ckc (b : Payload) : (s.setBuf b).ckc = s.ckc := rfl
@[simp] theorem State.setBuf_accept (b : Payload) : (s.setBuf b).accept = s.accept := rfl
@[simp] theorem State.setBuf_oId (b : Payload) : (s.setBuf b).oId = s.oId := rfl
@[simp] theorem State.setBuf_oChan (b : Payload) : (s.setBuf b).oChan = s.oChan := rfl
@[simp] theorem State.setBuf_oEvt (b : Payload) : (s.setBuf b).oEvt = s.oEvt := rfl
@[simp] theorem State.setBuf_oState (b : Payload) : (s.setBuf b).oState = s.oState := rfl
@[simp] theorem State.setBuf_oHb (b : Payload) : (s.setBuf b).oHb = s.oHb := rfl
@[simp] theorem State.setBuf_reason (b : Payload) : (s.setBuf b).reason = s.reason := rfl
@[simp] theorem State.setBuf_grain (b : Payload) : (s.setBuf b).grain = s.grain := rfl
@[simp] theorem State.setBuf_host (b : Payload) : (s.setBuf b).host = s.host := rfl

/-! `setPoly` -/

@[simp] theorem State.setPoly_cand (v : Word16) : (s.setPoly v).cand = s.cand := rfl
@[simp] theorem State.setPoly_start (v : Word16) : (s.setPoly v).start = s.start := rfl
@[simp] theorem State.setPoly_stage (v : Word16) : (s.setPoly v).stage = s.stage := rfl
@[simp] theorem State.setPoly_buf (v : Word16) : (s.setPoly v).buf = s.buf := rfl
@[simp] theorem State.setPoly_pol (v : Word16) : (s.setPoly v).pol = s.pol := rfl
@[simp] theorem State.setPoly_found (v : Word16) : (s.setPoly v).found = s.found := rfl
@[simp] theorem State.setPoly_pos (v : Word16) : (s.setPoly v).pos = s.pos := rfl
@[simp] theorem State.setPoly_poly (v : Word16) : (s.setPoly v).poly = v := rfl
@[simp] theorem State.setPoly_ckc (v : Word16) : (s.setPoly v).ckc = s.ckc := rfl
@[simp] theorem State.setPoly_accept (v : Word16) : (s.setPoly v).accept = s.accept := rfl
@[simp] theorem State.setPoly_oId (v : Word16) : (s.setPoly v).oId = s.oId := rfl
@[simp] theorem State.setPoly_oChan (v : Word16) : (s.setPoly v).oChan = s.oChan := rfl
@[simp] theorem State.setPoly_oEvt (v : Word16) : (s.setPoly v).oEvt = s.oEvt := rfl
@[simp] theorem State.setPoly_oState (v : Word16) : (s.setPoly v).oState = s.oState := rfl
@[simp] theorem State.setPoly_oHb (v : Word16) : (s.setPoly v).oHb = s.oHb := rfl
@[simp] theorem State.setPoly_reason (v : Word16) : (s.setPoly v).reason = s.reason := rfl
@[simp] theorem State.setPoly_grain (v : Word16) : (s.setPoly v).grain = s.grain := rfl
@[simp] theorem State.setPoly_host (v : Word16) : (s.setPoly v).host = s.host := rfl

/-! `setCkc` -/

@[simp] theorem State.setCkc_cand (v : Word16) : (s.setCkc v).cand = s.cand := rfl
@[simp] theorem State.setCkc_start (v : Word16) : (s.setCkc v).start = s.start := rfl
@[simp] theorem State.setCkc_stage (v : Word16) : (s.setCkc v).stage = s.stage := rfl
@[simp] theorem State.setCkc_buf (v : Word16) : (s.setCkc v).buf = s.buf := rfl
@[simp] theorem State.setCkc_pol (v : Word16) : (s.setCkc v).pol = s.pol := rfl
@[simp] theorem State.setCkc_found (v : Word16) : (s.setCkc v).found = s.found := rfl
@[simp] theorem State.setCkc_pos (v : Word16) : (s.setCkc v).pos = s.pos := rfl
@[simp] theorem State.setCkc_poly (v : Word16) : (s.setCkc v).poly = s.poly := rfl
@[simp] theorem State.setCkc_ckc (v : Word16) : (s.setCkc v).ckc = v := rfl
@[simp] theorem State.setCkc_accept (v : Word16) : (s.setCkc v).accept = s.accept := rfl
@[simp] theorem State.setCkc_oId (v : Word16) : (s.setCkc v).oId = s.oId := rfl
@[simp] theorem State.setCkc_oChan (v : Word16) : (s.setCkc v).oChan = s.oChan := rfl
@[simp] theorem State.setCkc_oEvt (v : Word16) : (s.setCkc v).oEvt = s.oEvt := rfl
@[simp] theorem State.setCkc_oState (v : Word16) : (s.setCkc v).oState = s.oState := rfl
@[simp] theorem State.setCkc_oHb (v : Word16) : (s.setCkc v).oHb = s.oHb := rfl
@[simp] theorem State.setCkc_reason (v : Word16) : (s.setCkc v).reason = s.reason := rfl
@[simp] theorem State.setCkc_grain (v : Word16) : (s.setCkc v).grain = s.grain := rfl
@[simp] theorem State.setCkc_host (v : Word16) : (s.setCkc v).host = s.host := rfl

/-! `clearResult` -/

@[simp] theorem State.clearResult_cand : s.clearResult.cand = s.cand := rfl
@[simp] theorem State.clearResult_start : s.clearResult.start = s.start := rfl
@[simp] theorem State.clearResult_stage : s.clearResult.stage = s.stage := rfl
@[simp] theorem State.clearResult_buf : s.clearResult.buf = s.buf := rfl
@[simp] theorem State.clearResult_pol : s.clearResult.pol = s.pol := rfl
@[simp] theorem State.clearResult_found : s.clearResult.found = s.found := rfl
@[simp] theorem State.clearResult_pos : s.clearResult.pos = s.pos := rfl
@[simp] theorem State.clearResult_poly : s.clearResult.poly = s.poly := rfl
@[simp] theorem State.clearResult_ckc : s.clearResult.ckc = s.ckc := rfl
@[simp] theorem State.clearResult_accept : s.clearResult.accept = false := rfl
@[simp] theorem State.clearResult_oId : s.clearResult.oId = 0#20 := rfl
@[simp] theorem State.clearResult_oChan : s.clearResult.oChan = 0#4 := rfl
@[simp] theorem State.clearResult_oEvt : s.clearResult.oEvt = 0#8 := rfl
@[simp] theorem State.clearResult_oState : s.clearResult.oState = false := rfl
@[simp] theorem State.clearResult_oHb : s.clearResult.oHb = false := rfl
@[simp] theorem State.clearResult_reason : s.clearResult.reason = s.reason := rfl
@[simp] theorem State.clearResult_grain : s.clearResult.grain = s.grain := rfl
@[simp] theorem State.clearResult_host : s.clearResult.host = s.host := rfl

/-! `clearWork` -/

@[simp] theorem State.clearWork_cand : s.clearWork.cand = s.cand := rfl
@[simp] theorem State.clearWork_start : s.clearWork.start = s.start := rfl
@[simp] theorem State.clearWork_stage : s.clearWork.stage = s.stage := rfl
@[simp] theorem State.clearWork_buf : s.clearWork.buf = Payload.zero := rfl
@[simp] theorem State.clearWork_pol : s.clearWork.pol = false := rfl
@[simp] theorem State.clearWork_found : s.clearWork.found = false := rfl
@[simp] theorem State.clearWork_pos : s.clearWork.pos = 0 := rfl
@[simp] theorem State.clearWork_poly : s.clearWork.poly = 0#16 := rfl
@[simp] theorem State.clearWork_ckc : s.clearWork.ckc = 0#16 := rfl
@[simp] theorem State.clearWork_accept : s.clearWork.accept = s.accept := rfl
@[simp] theorem State.clearWork_oId : s.clearWork.oId = s.oId := rfl
@[simp] theorem State.clearWork_oChan : s.clearWork.oChan = s.oChan := rfl
@[simp] theorem State.clearWork_oEvt : s.clearWork.oEvt = s.oEvt := rfl
@[simp] theorem State.clearWork_oState : s.clearWork.oState = s.oState := rfl
@[simp] theorem State.clearWork_oHb : s.clearWork.oHb = s.oHb := rfl
@[simp] theorem State.clearWork_reason : s.clearWork.reason = s.reason := rfl
@[simp] theorem State.clearWork_grain : s.clearWork.grain = s.grain := rfl
@[simp] theorem State.clearWork_host : s.clearWork.host = s.host := rfl

/-! `startAction` -/

@[simp] theorem State.startAction_cand : s.startAction.cand = s.cand := rfl
@[simp] theorem State.startAction_start : s.startAction.start = s.start := rfl
@[simp] theorem State.startAction_stage : s.startAction.stage = .shape := rfl
@[simp] theorem State.startAction_buf : s.startAction.buf = Payload.zero := rfl
@[simp] theorem State.startAction_pol : s.startAction.pol = false := rfl
@[simp] theorem State.startAction_found : s.startAction.found = false := rfl
@[simp] theorem State.startAction_pos : s.startAction.pos = 0 := rfl
@[simp] theorem State.startAction_poly : s.startAction.poly = 0#16 := rfl
@[simp] theorem State.startAction_ckc : s.startAction.ckc = 0#16 := rfl
@[simp] theorem State.startAction_accept : s.startAction.accept = false := rfl
@[simp] theorem State.startAction_oId : s.startAction.oId = 0#20 := rfl
@[simp] theorem State.startAction_oChan : s.startAction.oChan = 0#4 := rfl
@[simp] theorem State.startAction_oEvt : s.startAction.oEvt = 0#8 := rfl
@[simp] theorem State.startAction_oState : s.startAction.oState = false := rfl
@[simp] theorem State.startAction_oHb : s.startAction.oHb = false := rfl
@[simp] theorem State.startAction_reason : s.startAction.reason = none := rfl
@[simp] theorem State.startAction_grain : s.startAction.grain = s.grain := rfl
@[simp] theorem State.startAction_host : s.startAction.host = s.host := rfl

/-! `reject` -/

@[simp] theorem State.reject_cand (r : Reason) : (s.reject r).cand = s.cand := rfl
@[simp] theorem State.reject_start (r : Reason) : (s.reject r).start = s.start := rfl
@[simp] theorem State.reject_stage (r : Reason) : (s.reject r).stage = .done := rfl
@[simp] theorem State.reject_buf (r : Reason) : (s.reject r).buf = s.buf := rfl
@[simp] theorem State.reject_pol (r : Reason) : (s.reject r).pol = s.pol := rfl
@[simp] theorem State.reject_found (r : Reason) : (s.reject r).found = s.found := rfl
@[simp] theorem State.reject_pos (r : Reason) : (s.reject r).pos = s.pos := rfl
@[simp] theorem State.reject_poly (r : Reason) : (s.reject r).poly = s.poly := rfl
@[simp] theorem State.reject_ckc (r : Reason) : (s.reject r).ckc = s.ckc := rfl
@[simp] theorem State.reject_accept (r : Reason) : (s.reject r).accept = false := rfl
@[simp] theorem State.reject_oId (r : Reason) : (s.reject r).oId = 0#20 := rfl
@[simp] theorem State.reject_oChan (r : Reason) : (s.reject r).oChan = 0#4 := rfl
@[simp] theorem State.reject_oEvt (r : Reason) : (s.reject r).oEvt = 0#8 := rfl
@[simp] theorem State.reject_oState (r : Reason) : (s.reject r).oState = false := rfl
@[simp] theorem State.reject_oHb (r : Reason) : (s.reject r).oHb = false := rfl
@[simp] theorem State.reject_reason (r : Reason) : (s.reject r).reason = some r := rfl
@[simp] theorem State.reject_grain (r : Reason) : (s.reject r).grain = s.grain := rfl
@[simp] theorem State.reject_host (r : Reason) : (s.reject r).host = s.host := rfl

/-! `acceptWith` -/

@[simp] theorem State.acceptWith_cand (x y : Bool) : (s.acceptWith x y).cand = s.cand := rfl
@[simp] theorem State.acceptWith_start (x y : Bool) : (s.acceptWith x y).start = s.start := rfl
@[simp] theorem State.acceptWith_stage (x y : Bool) : (s.acceptWith x y).stage = .done := rfl
@[simp] theorem State.acceptWith_buf (x y : Bool) : (s.acceptWith x y).buf = s.buf := rfl
@[simp] theorem State.acceptWith_pol (x y : Bool) : (s.acceptWith x y).pol = s.pol := rfl
@[simp] theorem State.acceptWith_found (x y : Bool) : (s.acceptWith x y).found = s.found := rfl
@[simp] theorem State.acceptWith_pos (x y : Bool) : (s.acceptWith x y).pos = s.pos := rfl
@[simp] theorem State.acceptWith_poly (x y : Bool) : (s.acceptWith x y).poly = s.poly := rfl
@[simp] theorem State.acceptWith_ckc (x y : Bool) : (s.acceptWith x y).ckc = s.ckc := rfl
@[simp] theorem State.acceptWith_accept (x y : Bool) : (s.acceptWith x y).accept = true := rfl
@[simp] theorem State.acceptWith_oId (x y : Bool) : (s.acceptWith x y).oId = s.buf.ident := rfl
@[simp] theorem State.acceptWith_oChan (x y : Bool) : (s.acceptWith x y).oChan = s.buf.chan := rfl
@[simp] theorem State.acceptWith_oEvt (x y : Bool) : (s.acceptWith x y).oEvt = s.buf.evt := rfl
@[simp] theorem State.acceptWith_oState (x y : Bool) : (s.acceptWith x y).oState = x := rfl
@[simp] theorem State.acceptWith_oHb (x y : Bool) : (s.acceptWith x y).oHb = y := rfl
@[simp] theorem State.acceptWith_reason (x y : Bool) : (s.acceptWith x y).reason = s.reason := rfl
@[simp] theorem State.acceptWith_grain (x y : Bool) : (s.acceptWith x y).grain = s.grain := rfl
@[simp] theorem State.acceptWith_host (x y : Bool) : (s.acceptWith x y).host = s.host := rfl

/-! `applyReset` -/

@[simp] theorem State.applyReset_cand : s.applyReset.cand = s.cand := rfl
@[simp] theorem State.applyReset_start : s.applyReset.start = s.start := rfl
@[simp] theorem State.applyReset_stage : s.applyReset.stage = .idle := rfl
@[simp] theorem State.applyReset_buf : s.applyReset.buf = Payload.zero := rfl
@[simp] theorem State.applyReset_pol : s.applyReset.pol = false := rfl
@[simp] theorem State.applyReset_found : s.applyReset.found = false := rfl
@[simp] theorem State.applyReset_pos : s.applyReset.pos = 0 := rfl
@[simp] theorem State.applyReset_poly : s.applyReset.poly = 0#16 := rfl
@[simp] theorem State.applyReset_ckc : s.applyReset.ckc = 0#16 := rfl
@[simp] theorem State.applyReset_accept : s.applyReset.accept = false := rfl
@[simp] theorem State.applyReset_oId : s.applyReset.oId = 0#20 := rfl
@[simp] theorem State.applyReset_oChan : s.applyReset.oChan = 0#4 := rfl
@[simp] theorem State.applyReset_oEvt : s.applyReset.oEvt = 0#8 := rfl
@[simp] theorem State.applyReset_oState : s.applyReset.oState = false := rfl
@[simp] theorem State.applyReset_oHb : s.applyReset.oHb = false := rfl
@[simp] theorem State.applyReset_reason : s.applyReset.reason = none := rfl
@[simp] theorem State.applyReset_grain : s.applyReset.grain = s.grain := rfl
@[simp] theorem State.applyReset_host : s.applyReset.host = s.host := rfl

/-! `reset` -/

@[simp] theorem State.reset_cand : State.reset.cand = ⟨0, []⟩ := rfl
@[simp] theorem State.reset_start : State.reset.start = false := rfl
@[simp] theorem State.reset_stage : State.reset.stage = .idle := rfl
@[simp] theorem State.reset_buf : State.reset.buf = Payload.zero := rfl
@[simp] theorem State.reset_pol : State.reset.pol = false := rfl
@[simp] theorem State.reset_found : State.reset.found = false := rfl
@[simp] theorem State.reset_pos : State.reset.pos = 0 := rfl
@[simp] theorem State.reset_poly : State.reset.poly = 0#16 := rfl
@[simp] theorem State.reset_ckc : State.reset.ckc = 0#16 := rfl
@[simp] theorem State.reset_accept : State.reset.accept = false := rfl
@[simp] theorem State.reset_oId : State.reset.oId = 0#20 := rfl
@[simp] theorem State.reset_oChan : State.reset.oChan = 0#4 := rfl
@[simp] theorem State.reset_oEvt : State.reset.oEvt = 0#8 := rfl
@[simp] theorem State.reset_oState : State.reset.oState = false := rfl
@[simp] theorem State.reset_oHb : State.reset.oHb = false := rfl
@[simp] theorem State.reset_reason : State.reset.reason = none := rfl
@[simp] theorem State.reset_grain : State.reset.grain = .stage := rfl
@[simp] theorem State.reset_host : State.reset.host = [] := rfl

/-! `restIn` -/

@[simp] theorem State.restIn_start (st : Stage) (h : s.start = true) : s.restIn st = s.startAction := by
  simp [State.restIn, h]

@[simp] theorem State.restIn_hold (st : Stage) (h : s.start = false) : s.restIn st = s.goto st := by
  simp [State.restIn, h]

theorem State.goto_self (h : s.stage = st) : s.goto st = s := by
  cases s; cases h; rfl

end Sys2Proof.Machine
end

