-- ==== Sys2Proof/Laws/Exec.lean ====
section
/-! SUPPORT. What the shared operations, the meanings and a step can answer, said once. -/

namespace Sys2Proof.Machine

/-! The short-circuit -/

theorem thenStage_next {s : State} {f : State → Answer} (h : s.stage ≠ .done) : thenStage (.next s) f = f s := by
  simp [thenStage, h]

theorem thenStage_done {s : State} {f : State → Answer} (h : s.stage = .done) : thenStage (.next s) f = .next s := by
  simp [thenStage, h]

/-- If a short-circuit answers a next state, the first part did, and that state is its own (in DONE) or the second
part's. -/
theorem thenStage_cases {a : Answer} {f : State → Answer} {t : State} (h : thenStage a f = .next t) :
    (a = .next t ∧ t.stage = .done) ∨ ∃ s, a = .next s ∧ s.stage ≠ .done ∧ f s = .next t := by
  cases a with
  | next s =>
    by_cases hs : s.stage = .done
    · rw [thenStage_done hs] at h
      cases h
      exact .inl ⟨rfl, hs⟩
    · rw [thenStage_next hs] at h
      exact .inr ⟨s, rfl, hs, h⟩
  | fault r => cases h
  | refused r => cases h

/-! The checks, in numbers -/

theorem shapeOk_iff {c : Candidate} : shapeOk c = true ↔ c.rows = 1 ∧ 60 ≤ c.nbits := by
  unfold shapeOk
  rw [Bool.and_eq_true, decide_eq_true_iff, decide_eq_true_iff]
  rfl

theorem roomOk_iff {n p : Nat} : roomOk n p = true ↔ p + 60 ≤ n := by
  simp [roomOk, Config.fpl, Nat.add_assoc]

theorem zeroCollision_iff {b : Payload} : zeroCollision b = true ↔ b.ident = 0#20 ∧ b.ckt = 0#16 := by
  simp [zeroCollision]

theorem checksumOk_iff {b : Payload} {v : Word16} : checksumOk b v = true ↔ b.ckt = v := by
  simp [checksumOk]

/-- The mask-and-shift form of a flag is the bit (R160). -/
theorem eventState_eq (e : Byte) : eventState e = e.getLsbD 7 := by
  revert e; decide

theorem eventHeartbeat_eq (e : Byte) : eventHeartbeat e = e.getLsbD 2 := by
  revert e; decide

theorem polyFor_eq (c : Channel) : polyFor c = if c = 0x2#4 ∨ c = 0xA#4 then 0x8050#16 else 0x8005#16 := by
  revert c; decide

/-! The views and the buffer of given fields -/

@[simp] theorem Payload.chan_ofFields (c : Channel) (d : Ident) (e : Byte) (k : Word16) :
    (Payload.ofFields c d e k).chan = c := by
  apply BitVec.eq_of_getLsbD_eq
  intro i hi
  simp only [Payload.chan, Payload.ofFields, BitVec.getLsbD_append, BitVec.getLsbD_extractLsb', hi]
  simp

@[simp] theorem Payload.ident_ofFields (c : Channel) (d : Ident) (e : Byte) (k : Word16) :
    (Payload.ofFields c d e k).ident = d := by
  apply BitVec.eq_of_getLsbD_eq
  intro i hi
  simp only [Payload.ident, Payload.ofFields, BitVec.getLsbD_append, BitVec.getLsbD_extractLsb']
  by_cases h1 : i < 8
  · simp [h1]
  · by_cases h2 : i - 8 < 8
    · simp [h1, h2, show 8 + (i - 8) = i by omega]
    · simp [h1, h2, show i - 8 - 8 < 4 by omega, show 16 + (i - 8 - 8) = i by omega]

@[simp] theorem Payload.evt_ofFields (c : Channel) (d : Ident) (e : Byte) (k : Word16) :
    (Payload.ofFields c d e k).evt = e := rfl

@[simp] theorem Payload.ckt_ofFields (c : Channel) (d : Ident) (e : Byte) (k : Word16) :
    (Payload.ofFields c d e k).ckt = k := by
  apply BitVec.eq_of_getLsbD_eq
  intro i hi
  simp only [Payload.ckt, Payload.ofFields, BitVec.getLsbD_append, BitVec.getLsbD_extractLsb']
  by_cases h1 : i < 8
  · simp [h1]
  · simp [h1, show i - 8 < 8 by omega, show 8 + (i - 8) = i by omega]

/-! Stages -/

/-- The sequencer's operation is the meaning of the stage in `STAGE`. -/
theorem exec_ofStage (s : State) : exec (Instr.ofStage s.stage) s = runStage s := by
  unfold runStage
  cases s.stage <;> rfl

theorem execSearch_found {s : State} {p : Nat} (h : FirstMatch s.cand s.pol p) :
    execSearch s = .next ((s.setMatch true p).goto .bound) := by
  simp [execSearch, search_found h]

theorem execSearch_missing {s : State} (h : ∀ p, ¬ MatchAt s.cand s.pol p) :
    execSearch s = .next ((s.setMatch false 0).goto .bound) := by
  simp [execSearch, search_missing h]

/-- EXTRACT answers a next state exactly with the payload inside the row, and then the buffer holds it. -/
theorem execExtract_cases (s : State) :
    (s.pos + 60 ≤ s.cand.nbits ∧
      ∃ b, HoldsRow s.cand s.pol (s.pos + 12) b ∧ execExtract s = .next ((s.setBuf b).goto .zchk)) ∨
    (s.cand.nbits < s.pos + 60 ∧ execExtract s = .fault .rowReadOutOfRange) := by
  by_cases h : s.pos + 60 ≤ s.cand.nbits
  · obtain ⟨b, hb, hr⟩ := loadBytes_some (c := s.cand) (pol := s.pol) (a := s.pos + 12) s.buf (by omega)
    exact .inl ⟨h, b, hr, by simp [execExtract, Config.fpl, hb]⟩
  · have hb := loadBytes_none (c := s.cand) (pol := s.pol) (a := s.pos + 12) s.buf (by omega)
    exact .inr ⟨by omega, by simp [execExtract, Config.fpl, hb]⟩

/-! Frames -/

/-- A frame operation is the shared meaning with its channel and the polynomial that PSEL would select. -/
theorem exec_ofFrame (c : Channel) (d : Ident) (e : Byte) (k : Word16) (s : State) :
    exec (Instr.ofFrame c d e k) s = execFrame c (polyFor c) d e k s := by
  obtain ⟨⟨n, hn⟩⟩ := c
  change n < 16 at hn
  interval_cases n <;> rfl

theorem execFrame_starting {c : Channel} {p : Word16} {d : Ident} {e : Byte} {k : Word16} {s : State}
    (h : s.starting = true) : execFrame c p d e k s = frameTransaction c p d e k s := by
  unfold State.starting at h
  simp [execFrame, h]

theorem execFrame_idle {c : Channel} {p : Word16} {d : Ident} {e : Byte} {k : Word16} {s : State}
    (h : s.starting = false) : execFrame c p d e k s = runStage s := by
  unfold State.starting at h
  simp [execFrame, h]

/-- The state in which a transaction has passed BOUND with its match at `p`. -/
def State.locatedAt (s : State) (p : Nat) : State :=
  (((s.startAction.setPol true).setMatch true p).goto .extract)

/-- A frame's transaction once its candidate has passed the shape check, the search and the bound. -/
theorem frameTransaction_located {c : Channel} {p : Nat} {poly : Word16} {d : Ident} {e : Byte} {k : Word16}
    {s : State} (hshape : s.cand.rows = 1) (hm : FirstMatch s.cand true p) (hroom : p + 60 ≤ s.cand.nbits) :
    frameTransaction c poly d e k s =
      thenStage (execZchk (((s.locatedAt p).setBuf (Payload.ofFields c d e k)).goto .zchk)) fun s6 =>
      thenStage (execCrc ((s6.setPoly poly).goto .crc)) fun s8 =>
      thenStage (execCmp s8) execEvdec := by
  have h1 : execShape s.startAction = .next (s.startAction.goto .invert) := by
    have : shapeOk s.startAction.cand = true := shapeOk_iff.2 ⟨hshape, by simp; omega⟩
    rw [execShape, if_pos this]
  have h3 : execSearch ((((s.startAction.goto .invert).setPol true).goto .search)) =
      .next ((((s.startAction.setPol true).setMatch true p).goto .bound)) := by
    rw [execSearch_found (p := p) (by simpa using hm)]
    rfl
  have h4 : execBound (((s.startAction.setPol true).setMatch true p).goto .bound) = .next (s.locatedAt p) := by
    have : roomOk s.cand.nbits p = true := roomOk_iff.2 hroom
    simp [execBound, this, State.locatedAt]
    rfl
  unfold frameTransaction
  rw [h1, thenStage_next (by simp)]
  rw [show execInvert (s.startAction.goto .invert) =
    .next (((s.startAction.goto .invert).setPol true).goto .search) from rfl, thenStage_next (by simp)]
  rw [h3, thenStage_next (by simp), h4, thenStage_next (by simp [State.locatedAt])]
  rw [loadFrame, thenStage_next (by simp)]
  rfl

/-! Fetching and stepping -/

theorem Stage.ofCode_code (st : Stage) : Stage.ofCode st.code = some st := by cases st <;> rfl

theorem decode_stage (st : Stage) : decode (.stage st.code) = .ok (Instr.ofStage st) := by cases st <;> rfl

theorem decode_frame_of_preamble {f : FrameWord} (h : FrameWord.preamble f = Config.fpl.pre) :
    decode (.frame f) =
      .ok (Instr.ofFrame (FrameWord.channel f) (FrameWord.ident f) (FrameWord.event f) (FrameWord.checksum f)) := by
  simp [decode, h]

theorem hostPhase_nil {s : State} (h : s.host = []) : hostPhase s = .run s := by
  simp [hostPhase, h]

theorem fetchWord_stage {s : State} (h : s.grain = .stage) : fetchWord s = some (.stage s.stage.code) := by
  simp [fetchWord, h]

theorem fetchWord_not_starting {s : State} (h : s.starting = false) : fetchWord s = some (.stage s.stage.code) := by
  unfold fetchWord
  cases s.grain <;> simp [h]

/-- Everything that looking for the candidate's frame can answer: the 60 bits from the first match on, or that there
is no frame. It never answers that a read had no value (R61). -/
theorem locateFrame_cases (c : Candidate) :
    (∃ p f, (c.rows = 1 ∧ 60 ≤ c.nbits) ∧ FirstMatch c true p ∧ rowBits c true p 60 = some f ∧
      locateFrame c = some (some f)) ∨
    ((∀ p f, c.rows = 1 → FirstMatch c true p → rowBits c true p 60 ≠ some f) ∧ locateFrame c = some none) := by
  unfold locateFrame
  by_cases hs : shapeOk c = true
  · have hs' := shapeOk_iff.1 hs
    rcases firstMatch_or_none c true with ⟨p, hp⟩ | hno
    · by_cases hr : roomOk c.nbits p = true
      · obtain ⟨f, hf⟩ := rowBits_isSome (c := c) (pol := true) (roomOk_iff.1 hr)
        exact .inl ⟨p, f, hs', hp, hf, by simp [hs, search_found hp, hr, hf]⟩
      · refine .inr ⟨fun q f _ hq hf => ?_, by simp [hs, search_found hp, hr]⟩
        rw [firstMatch_unique hq hp, rowBits_eq_none_iff.2 ⟨by decide, by rw [roomOk_iff] at hr; omega⟩] at hf
        cases hf
    · exact .inr ⟨fun p _ _ hp => absurd hp.1 (hno p), by simp [hs, search_missing hno]⟩
  · refine .inr ⟨fun p f h1 _ hf => hs (shapeOk_iff.2 ⟨h1, ?_⟩), by simp [hs]⟩
    by_contra hn
    rw [rowBits_eq_none_iff.2 ⟨by decide, by omega⟩] at hf
    cases hf

/-- A candidate carries a frame exactly when it is one row of at least 60 bits whose first match has 48 bits after
it; the frame is the 60 bits from the match on. -/
theorem locateFrame_eq_some_iff {c : Candidate} {f : FrameWord} :
    locateFrame c = some (some f) ↔
      (c.rows = 1 ∧ 60 ≤ c.nbits) ∧ ∃ p, FirstMatch c true p ∧ rowBits c true p 60 = some f := by
  rcases locateFrame_cases c with ⟨p, g, hs, hp, hg, hl⟩ | ⟨hno, hl⟩
  · rw [hl]
    constructor
    · intro h
      cases h
      exact ⟨hs, p, hp, hg⟩
    · rintro ⟨_, q, hq, h⟩
      rw [firstMatch_unique hq hp, hg] at h
      rw [Option.some.inj h]
  · rw [hl]
    exact ⟨fun h => (by cases h), fun ⟨hs, p, hp, h⟩ => absurd h (hno p f hs.1 hp)⟩

/-- The fetch never needs a read that has no value (R61). -/
theorem fetchWord_ne_none (s : State) : fetchWord s ≠ none := by
  unfold fetchWord
  rcases locateFrame_cases s.cand with ⟨_, f, _, _, _, hl⟩ | ⟨_, hl⟩ <;> rw [hl] <;> cases s.grain <;>
    cases s.starting <;> simp

/-- A frame in the row starts with the preamble, so it decodes. -/
theorem preamble_of_located {c : Candidate} {p : Nat} {f : FrameWord} (hm : MatchAt c true p)
    (hf : rowBits c true p 60 = some f) : FrameWord.preamble f = Config.fpl.pre := by
  have h12 := matchAt_iff_rowBits.1 hm
  have : rowBits c true p 12 = some (FrameWord.preamble f) := by
    rw [rowBits_eq_some_iff] at hf ⊢
    intro j hj
    rw [hf j (by omega)]
    congr 1
    simp only [FrameWord.preamble, BitVec.getMsbD_eq_getLsbD, BitVec.getLsbD_extractLsb', hj, decide_true,
      Bool.true_and, show j < 60 by omega]
    rw [show 48 + (12 - 1 - j) = 60 - 1 - j by omega]
    simp [show 12 - 1 - j < 12 by omega]
  rw [this] at h12
  simpa using h12

/-- A step with no host action pending, one stage at a time, is the meaning of the stage in `STAGE`. -/
theorem step_stage {s : State} (hh : s.host = []) (hg : s.grain = .stage) : step s = runStage s := by
  simp only [step, hostPhase_nil hh, fetchWord_stage hg, decode_stage, exec_ofStage]

end Sys2Proof.Machine
end

