-- ==== Sys2Proof/Laws/PerInstr.lean ====
section
/-! SUPPORT. One lemma for each operation: its word has the format, and under its row's mask the value, that
spec/opcode_table.json gives the row. -/

namespace Sys2Proof.Laws.TableRow

/-- A word as the table's row has it: the format STAGE4 under mask `0xF`, or FRAME60 under mask `0xFFFF00000000000`. -/
inductive Row where
  /-- A row of format STAGE4 with its match value. -/
  | stage4 (value : StageCode)
  /-- A row of format FRAME60 with its match value. -/
  | frame60 (value : FrameWord)
  deriving DecidableEq, Repr

/-- What is left of a word under the mask of its format's rows. -/
def masked : Code → Row
  | .stage c => .stage4 (c &&& 0xF#4)
  | .frame f => .frame60 (f &&& 0xFFFF00000000000#60)

/-- The table's row of an operation: its format and its match value. -/
def row : Instr → Row
  | .idle => .stage4 0x0#4
  | .shape => .stage4 0x1#4
  | .invert => .stage4 0x2#4
  | .search => .stage4 0x3#4
  | .bound => .stage4 0x4#4
  | .extract => .stage4 0x5#4
  | .zchk => .stage4 0x6#4
  | .psel => .stage4 0x7#4
  | .crc => .stage4 0x8#4
  | .cmp => .stage4 0x9#4
  | .evdec => .stage4 0xA#4
  | .done => .stage4 0xB#4
  | .frameCh0 _ _ _ => .frame60 0xFFE000000000000#60
  | .frameCh1 _ _ _ => .frame60 0xFFE100000000000#60
  | .frameCh2 _ _ _ => .frame60 0xFFE200000000000#60
  | .frameCh3 _ _ _ => .frame60 0xFFE300000000000#60
  | .frameCh4 _ _ _ => .frame60 0xFFE400000000000#60
  | .frameCh5 _ _ _ => .frame60 0xFFE500000000000#60
  | .frameCh6 _ _ _ => .frame60 0xFFE600000000000#60
  | .frameCh7 _ _ _ => .frame60 0xFFE700000000000#60
  | .frameCh8 _ _ _ => .frame60 0xFFE800000000000#60
  | .frameCh9 _ _ _ => .frame60 0xFFE900000000000#60
  | .frameChA _ _ _ => .frame60 0xFFEA00000000000#60
  | .frameChB _ _ _ => .frame60 0xFFEB00000000000#60
  | .frameChC _ _ _ => .frame60 0xFFEC00000000000#60
  | .frameChD _ _ _ => .frame60 0xFFED00000000000#60
  | .frameChE _ _ _ => .frame60 0xFFEE00000000000#60
  | .frameChF _ _ _ => .frame60 0xFFEF00000000000#60

/-- The operation is well formed and its encoding is a word of its own row of the table. -/
def Statement (i : Instr) : Prop := i.wellFormed = true ∧ masked (encode i) = row i

/-- The bits of a frame word in row order, field by field (R80). -/
theorem frameWord_getMsbD (c : Channel) (d : Ident) (e : Byte) (k : Word16) (n : Nat) :
    (frameWord c d e k).getMsbD n =
      if n < 12 then Config.fpl.pre.getMsbD n
      else if n < 16 then c.getMsbD (n - 12)
      else if n < 36 then d.getMsbD (n - 16)
      else if n < 44 then e.getMsbD (n - 36)
      else k.getMsbD (n - 44) := by
  unfold frameWord
  simp only [BitVec.getMsbD_append]
  split_ifs <;> first | omega | (congr 1)

/-- Under the mask of preamble and channel only those two are left (R89). -/
theorem frameWord_masked (c : Channel) (d : Ident) (e : Byte) (k : Word16) :
    frameWord c d e k &&& 0xFFFF00000000000#60 = 0xFFE#12 ++ c ++ 0#44 := by
  apply BitVec.eq_of_getMsbD_eq
  intro n hn
  have hmask : (0xFFFF00000000000#60).getMsbD n = decide (n < 16) := by interval_cases n <;> rfl
  rw [BitVec.getMsbD_and, frameWord_getMsbD, hmask]
  simp only [BitVec.getMsbD_append]
  split_ifs <;> simp_all [Config.fpl] <;> omega

theorem idle : Statement .idle := ⟨rfl, rfl⟩
theorem shape : Statement .shape := ⟨rfl, rfl⟩
theorem invert : Statement .invert := ⟨rfl, rfl⟩
theorem search : Statement .search := ⟨rfl, rfl⟩
theorem bound : Statement .bound := ⟨rfl, rfl⟩
theorem extract : Statement .extract := ⟨rfl, rfl⟩
theorem zchk : Statement .zchk := ⟨rfl, rfl⟩
theorem psel : Statement .psel := ⟨rfl, rfl⟩
theorem crc : Statement .crc := ⟨rfl, rfl⟩
theorem cmp : Statement .cmp := ⟨rfl, rfl⟩
theorem evdec : Statement .evdec := ⟨rfl, rfl⟩
theorem done : Statement .done := ⟨rfl, rfl⟩
theorem frameCh0 (d : Ident) (e : Byte) (k : Word16) : Statement (.frameCh0 d e k) :=
  ⟨rfl, congrArg Row.frame60 (frameWord_masked 0x0#4 d e k)⟩
theorem frameCh1 (d : Ident) (e : Byte) (k : Word16) : Statement (.frameCh1 d e k) :=
  ⟨rfl, congrArg Row.frame60 (frameWord_masked 0x1#4 d e k)⟩
theorem frameCh2 (d : Ident) (e : Byte) (k : Word16) : Statement (.frameCh2 d e k) :=
  ⟨rfl, congrArg Row.frame60 (frameWord_masked 0x2#4 d e k)⟩
theorem frameCh3 (d : Ident) (e : Byte) (k : Word16) : Statement (.frameCh3 d e k) :=
  ⟨rfl, congrArg Row.frame60 (frameWord_masked 0x3#4 d e k)⟩
theorem frameCh4 (d : Ident) (e : Byte) (k : Word16) : Statement (.frameCh4 d e k) :=
  ⟨rfl, congrArg Row.frame60 (frameWord_masked 0x4#4 d e k)⟩
theorem frameCh5 (d : Ident) (e : Byte) (k : Word16) : Statement (.frameCh5 d e k) :=
  ⟨rfl, congrArg Row.frame60 (frameWord_masked 0x5#4 d e k)⟩
theorem frameCh6 (d : Ident) (e : Byte) (k : Word16) : Statement (.frameCh6 d e k) :=
  ⟨rfl, congrArg Row.frame60 (frameWord_masked 0x6#4 d e k)⟩
theorem frameCh7 (d : Ident) (e : Byte) (k : Word16) : Statement (.frameCh7 d e k) :=
  ⟨rfl, congrArg Row.frame60 (frameWord_masked 0x7#4 d e k)⟩
theorem frameCh8 (d : Ident) (e : Byte) (k : Word16) : Statement (.frameCh8 d e k) :=
  ⟨rfl, congrArg Row.frame60 (frameWord_masked 0x8#4 d e k)⟩
theorem frameCh9 (d : Ident) (e : Byte) (k : Word16) : Statement (.frameCh9 d e k) :=
  ⟨rfl, congrArg Row.frame60 (frameWord_masked 0x9#4 d e k)⟩
theorem frameChA (d : Ident) (e : Byte) (k : Word16) : Statement (.frameChA d e k) :=
  ⟨rfl, congrArg Row.frame60 (frameWord_masked 0xA#4 d e k)⟩
theorem frameChB (d : Ident) (e : Byte) (k : Word16) : Statement (.frameChB d e k) :=
  ⟨rfl, congrArg Row.frame60 (frameWord_masked 0xB#4 d e k)⟩
theorem frameChC (d : Ident) (e : Byte) (k : Word16) : Statement (.frameChC d e k) :=
  ⟨rfl, congrArg Row.frame60 (frameWord_masked 0xC#4 d e k)⟩
theorem frameChD (d : Ident) (e : Byte) (k : Word16) : Statement (.frameChD d e k) :=
  ⟨rfl, congrArg Row.frame60 (frameWord_masked 0xD#4 d e k)⟩
theorem frameChE (d : Ident) (e : Byte) (k : Word16) : Statement (.frameChE d e k) :=
  ⟨rfl, congrArg Row.frame60 (frameWord_masked 0xE#4 d e k)⟩
theorem frameChF (d : Ident) (e : Byte) (k : Word16) : Statement (.frameChF d e k) :=
  ⟨rfl, congrArg Row.frame60 (frameWord_masked 0xF#4 d e k)⟩

end Sys2Proof.Laws.TableRow
end

