-- ==== Sys2Proof/Laws/Run.lean ====
section
/-! SUPPORT. Runs of several steps, and what a whole transaction run stage by stage can end in, said once. -/

namespace Sys2Proof.Machine

theorem run_zero (s : State) : Host.Core.run Sys2Proof.core 0 s = .next s := rfl

theorem run_succ {s t : State} {n : Nat} (h : step s = .next t) :
    Host.Core.run Sys2Proof.core (n + 1) s = Host.Core.run Sys2Proof.core n t := by
  have h' : Sys2Proof.core.step s = .next t := h
  rw [Host.Core.run.eq_def Sys2Proof.core (n + 1) s]
  simp only [h']

theorem run_succ_fault {s : State} {n : Nat} {f : Fault} (h : step s = .fault f) :
    Host.Core.run Sys2Proof.core (n + 1) s = .fault f := by
  have h' : Sys2Proof.core.step s = .fault f := h
  rw [Host.Core.run.eq_def Sys2Proof.core (n + 1) s]
  simp only [h']

theorem run_succ_refused {s : State} {n : Nat} {r : Refusal} (h : step s = .refused r) :
    Host.Core.run Sys2Proof.core (n + 1) s = .refused r := by
  have h' : Sys2Proof.core.step s = .refused r := h
  rw [Host.Core.run.eq_def Sys2Proof.core (n + 1) s]
  simp only [h']

/-- A list of states each of which steps to the one after it. -/
def Chain : State → List State → Prop
  | _, [] => True
  | s, t :: l => step s = .next t ∧ Chain t l

/-- Along a chain, `m` steps lead to its `m`-th state. -/
theorem run_chain {s : State} {l : List State} (h : Chain s l) {m : Nat} (hm : m ≤ l.length) :
    Host.Core.run Sys2Proof.core m s = .next ((s :: l)[m]'(by simp; omega)) := by
  induction l generalizing s m with
  | nil =>
    obtain rfl : m = 0 := by simpa using hm
    rfl
  | cons t l ih =>
    cases m with
    | zero => rfl
    | succ m =>
      rw [run_succ h.1, ih h.2 (by simpa using hm)]
      rfl

/-- The result of a transaction that has passed every check up to the checksum. -/
def State.summedAt (s : State) (p : Nat) (b : Payload) : State :=
  (((s.locatedAt p).setBuf b).setPoly (polyFor b.chan)).setCkc (crc16 (polyFor b.chan) b.covered)

/-- What a transaction started in `s` can end in: the five rejections of R171 in their order, or acceptance. -/
inductive TransactionEnd (s : State) : State → Prop where
  | shortBuffer (h : ¬ (s.cand.rows = 1 ∧ 60 ≤ s.cand.nbits)) :
      TransactionEnd s (s.startAction.reject .shortBuffer)
  | noPreamble (h : s.cand.rows = 1 ∧ 60 ≤ s.cand.nbits) (hm : ∀ p, ¬ MatchAt s.cand true p) :
      TransactionEnd s ((s.startAction.setPol true).reject .noPreamble)
  | truncated (h : s.cand.rows = 1 ∧ 60 ≤ s.cand.nbits) (p : Nat) (hm : FirstMatch s.cand true p)
      (hr : s.cand.nbits < p + 60) :
      TransactionEnd s (((s.startAction.setPol true).setMatch true p).reject .truncated)
  | zeroCollision (h : s.cand.rows = 1 ∧ 60 ≤ s.cand.nbits) (p : Nat) (hm : FirstMatch s.cand true p)
      (hr : p + 60 ≤ s.cand.nbits) (b : Payload) (hb : HoldsRow s.cand true (p + 12) b)
      (hz : b.ident = 0#20 ∧ b.ckt = 0#16) :
      TransactionEnd s (((s.locatedAt p).setBuf b).reject .zeroCollision)
  | crcMismatch (h : s.cand.rows = 1 ∧ 60 ≤ s.cand.nbits) (p : Nat) (hm : FirstMatch s.cand true p)
      (hr : p + 60 ≤ s.cand.nbits) (b : Payload) (hb : HoldsRow s.cand true (p + 12) b)
      (hz : ¬ (b.ident = 0#20 ∧ b.ckt = 0#16)) (hk : b.ckt ≠ crc16 (polyFor b.chan) b.covered) :
      TransactionEnd s ((s.summedAt p b).reject .crcMismatch)
  | accepted (h : s.cand.rows = 1 ∧ 60 ≤ s.cand.nbits) (p : Nat) (hm : FirstMatch s.cand true p)
      (hr : p + 60 ≤ s.cand.nbits) (b : Payload) (hb : HoldsRow s.cand true (p + 12) b)
      (hz : ¬ (b.ident = 0#20 ∧ b.ckt = 0#16)) (hk : b.ckt = crc16 (polyFor b.chan) b.covered) :
      TransactionEnd s ((s.summedAt p b).acceptWith (b.evt.getLsbD 7) (b.evt.getLsbD 2))

/-- The step of each stage in a chain: stage grain, no host action pending. -/
theorem step_at {s : State} (hh : s.host = []) (hg : s.grain = .stage) {st : Stage} (h : s.stage = st) :
    step s = exec (Instr.ofStage st) s := by
  rw [step_stage hh hg, ← exec_ofStage, h]

theorem firstMatch_of_startAction {s : State} {p : Nat} (h : FirstMatch s.cand true p) :
    execSearch (((s.startAction).setPol true).goto .search) =
      .next ((((s.startAction).setPol true).setMatch true p).goto .bound) := by
  rw [execSearch_found (p := p) (by simpa using h)]
  rfl

/-- From rest with `start == 1`, stage by stage, a transaction runs through busy states to one of its ends. -/
theorem transaction_chain {s : State} (hr : s.stage.atRest = true) (hs : s.start = true) (hh : s.host = [])
    (hg : s.grain = .stage) :
    ∃ l t, Chain s (l ++ [t]) ∧ l.length ≤ 10 ∧ (∀ u ∈ l, u.stage.atRest = false) ∧ TransactionEnd s t := by
  have h0 : step s = .next s.startAction := by
    rw [step_stage hh hg]
    have : s.stage = .idle ∨ s.stage = .done := by
      cases h : s.stage <;> simp [h, Stage.atRest] at hr ⊢
    rcases this with h | h <;> simp [runStage, h, execIdle, execDone, hs]
  have hA : step s.startAction = execShape s.startAction :=
    step_at (s := s.startAction) (by simpa using hh) (by simpa using hg) (st := .shape) rfl
  by_cases hshape : s.cand.rows = 1 ∧ 60 ≤ s.cand.nbits
  swap
  · have : shapeOk s.startAction.cand = false := by
      rw [← Bool.not_eq_true, shapeOk_iff]
      simpa using hshape
    refine ⟨[s.startAction], _, ⟨h0, ?_, trivial⟩, by simp, by simp [Stage.atRest], .shortBuffer hshape⟩
    rw [hA, execShape, this]
    rfl
  have hA' : step s.startAction = .next (s.startAction.goto .invert) := by
    have : shapeOk s.startAction.cand = true := by rw [shapeOk_iff]; simpa using hshape
    rw [hA, execShape, if_pos this]
  have hB : step (s.startAction.goto .invert) = .next ((s.startAction.setPol true).goto .search) := by
    rw [step_at (st := .invert) (by simpa using hh) (by simpa using hg) rfl]
    rfl
  have hC : step ((s.startAction.setPol true).goto .search) =
      execSearch ((s.startAction.setPol true).goto .search) :=
    step_at (st := .search) (by simpa using hh) (by simpa using hg) rfl
  rcases firstMatch_or_none s.cand true with ⟨p, hp⟩ | hno
  swap
  · refine ⟨[s.startAction, s.startAction.goto .invert, (s.startAction.setPol true).goto .search,
      (s.startAction.setPol true).goto .bound], _, ⟨h0, hA', hB, ?_, ?_, trivial⟩, by simp, by simp [Stage.atRest],
      .noPreamble hshape hno⟩
    · rw [hC, execSearch_missing (by simpa using hno)]
      rfl
    · rw [step_at (st := .bound) (by simpa using hh) (by simpa using hg) rfl]
      rfl
  rw [firstMatch_of_startAction hp] at hC
  have hD : step (((s.startAction.setPol true).setMatch true p).goto .bound) =
      execBound (((s.startAction.setPol true).setMatch true p).goto .bound) :=
    step_at (st := .bound) (by simpa using hh) (by simpa using hg) rfl
  by_cases hroom : p + 60 ≤ s.cand.nbits
  swap
  · refine ⟨[s.startAction, s.startAction.goto .invert, (s.startAction.setPol true).goto .search,
      ((s.startAction.setPol true).setMatch true p).goto .bound], _, ⟨h0, hA', hB, hC, ?_, trivial⟩, by simp,
      by simp [Stage.atRest], .truncated hshape p hp (by omega)⟩
    have : roomOk s.cand.nbits p = false := by rw [← Bool.not_eq_true, roomOk_iff]; exact hroom
    rw [hD]
    simp [execBound, this]
    rfl
  have hD' : step (((s.startAction.setPol true).setMatch true p).goto .bound) = .next (s.locatedAt p) := by
    have : roomOk s.cand.nbits p = true := roomOk_iff.2 hroom
    rw [hD]
    simp [execBound, this, State.locatedAt]
    rfl
  obtain ⟨b, hb, hE⟩ : ∃ b, HoldsRow s.cand true (p + 12) b ∧
      step (s.locatedAt p) = .next (((s.locatedAt p).setBuf b).goto .zchk) := by
    rw [step_at (st := .extract) (by simpa [State.locatedAt] using hh) (by simpa [State.locatedAt] using hg) rfl]
    rcases execExtract_cases (s.locatedAt p) with ⟨_, b, hb, he⟩ | ⟨hlt, _⟩
    · exact ⟨b, by simpa [State.locatedAt] using hb, he⟩
    · simp [State.locatedAt] at hlt
      omega
  have hF : step (((s.locatedAt p).setBuf b).goto .zchk) = execZchk (((s.locatedAt p).setBuf b).goto .zchk) :=
    step_at (st := .zchk) (by simpa [State.locatedAt] using hh) (by simpa [State.locatedAt] using hg) rfl
  by_cases hz : b.ident = 0#20 ∧ b.ckt = 0#16
  · refine ⟨[s.startAction, s.startAction.goto .invert, (s.startAction.setPol true).goto .search,
      ((s.startAction.setPol true).setMatch true p).goto .bound, s.locatedAt p,
      ((s.locatedAt p).setBuf b).goto .zchk], _, ⟨h0, hA', hB, hC, hD', hE, ?_, trivial⟩, by simp,
      by simp [Stage.atRest, State.locatedAt], .zeroCollision hshape p hp hroom b hb hz⟩
    rw [hF]
    simp [execZchk, zeroCollision_iff.2 hz]
    rfl
  have hz' : zeroCollision b = false := by rw [← Bool.not_eq_true, zeroCollision_iff]; exact hz
  have hF' : step (((s.locatedAt p).setBuf b).goto .zchk) = .next (((s.locatedAt p).setBuf b).goto .psel) := by
    rw [hF]
    simp [execZchk, hz']
    rfl
  have hG : step (((s.locatedAt p).setBuf b).goto .psel) =
      .next ((((s.locatedAt p).setBuf b).setPoly (polyFor b.chan)).goto .crc) := by
    rw [step_at (st := .psel) (by simpa [State.locatedAt] using hh) (by simpa [State.locatedAt] using hg) rfl]
    rfl
  have hH : step ((((s.locatedAt p).setBuf b).setPoly (polyFor b.chan)).goto .crc) =
      .next ((s.summedAt p b).goto .cmp) := by
    rw [step_at (st := .crc) (by simpa [State.locatedAt] using hh) (by simpa [State.locatedAt] using hg) rfl]
    rfl
  have hI : step ((s.summedAt p b).goto .cmp) = execCmp ((s.summedAt p b).goto .cmp) :=
    step_at (st := .cmp) (by simpa [State.summedAt, State.locatedAt] using hh)
      (by simpa [State.summedAt, State.locatedAt] using hg) rfl
  by_cases hk : b.ckt = crc16 (polyFor b.chan) b.covered
  swap
  · have : checksumOk b (crc16 (polyFor b.chan) b.covered) = false := by
      rw [← Bool.not_eq_true, checksumOk_iff]; exact hk
    refine ⟨[s.startAction, s.startAction.goto .invert, (s.startAction.setPol true).goto .search,
      ((s.startAction.setPol true).setMatch true p).goto .bound, s.locatedAt p,
      ((s.locatedAt p).setBuf b).goto .zchk, ((s.locatedAt p).setBuf b).goto .psel,
      (((s.locatedAt p).setBuf b).setPoly (polyFor b.chan)).goto .crc, (s.summedAt p b).goto .cmp], _,
      ⟨h0, hA', hB, hC, hD', hE, hF', hG, hH, ?_, trivial⟩, by simp,
      by simp [Stage.atRest, State.locatedAt], .crcMismatch hshape p hp hroom b hb hz hk⟩
    rw [hI]
    simp [execCmp, State.summedAt, this]
    rfl
  · have : checksumOk b (crc16 (polyFor b.chan) b.covered) = true := checksumOk_iff.2 hk
    refine ⟨[s.startAction, s.startAction.goto .invert, (s.startAction.setPol true).goto .search,
      ((s.startAction.setPol true).setMatch true p).goto .bound, s.locatedAt p,
      ((s.locatedAt p).setBuf b).goto .zchk, ((s.locatedAt p).setBuf b).goto .psel,
      (((s.locatedAt p).setBuf b).setPoly (polyFor b.chan)).goto .crc, (s.summedAt p b).goto .cmp,
      (s.summedAt p b).goto .evdec], _,
      ⟨h0, hA', hB, hC, hD', hE, hF', hG, hH, ?_, ?_, trivial⟩, by simp,
      by simp [Stage.atRest, State.locatedAt], .accepted hshape p hp hroom b hb hz hk⟩
    · rw [hI]
      simp [execCmp, State.summedAt, this]
      rfl
    · rw [step_at (st := .evdec) (by simpa [State.summedAt, State.locatedAt] using hh)
        (by simpa [State.summedAt, State.locatedAt] using hg) rfl]
      show Host.Outcome.next ((s.summedAt p b |>.goto .evdec).acceptWith (eventState b.evt) (eventHeartbeat b.evt)) = _
      rw [eventState_eq, eventHeartbeat_eq]
      rfl

/-- Where a frame stands in the row, its fields laid out as bytes are the row's payload (R81). -/
theorem holdsRow_of_frame {c : Candidate} {p : Nat} {f : FrameWord} (h : rowBits c true p 60 = some f) :
    HoldsRow c true (p + 12)
      (Payload.ofFields (FrameWord.channel f) (FrameWord.ident f) (FrameWord.event f) (FrameWord.checksum f)) := by
  intro k
  rw [rowBits_eq_some_iff] at h ⊢
  intro j hj
  rw [show p + 12 + 8 * k.val + j = p + (12 + 8 * k.val + j) by omega, h _ (by have := k.isLt; omega)]
  congr 1
  simp only [BitVec.getMsbD_eq_getLsbD]
  fin_cases k <;>
    simp only [Payload.read, Payload.ofFields, FrameWord.channel, FrameWord.ident, FrameWord.event,
      FrameWord.checksum, BitVec.getLsbD_append, BitVec.getLsbD_extractLsb'] <;>
    interval_cases j <;> simp

/-- The end of a transaction is determined by the state it starts in. -/
theorem TransactionEnd.unique {s t t' : State} (h : TransactionEnd s t) (h' : TransactionEnd s t') : t = t' := by
  have hp := fun p q => @firstMatch_unique s.cand true p q
  have hb := fun a b b' => @holdsRow_unique s.cand true a b b'
  have hn : ∀ p, FirstMatch s.cand true p → MatchAt s.cand true p := fun p h => h.1
  cases h <;> cases h' <;> grind

/-- A frame that stands first in its candidate, started at rest, ends its transaction as the candidate's does. -/
theorem frameTransaction_end {s : State} {c : Channel} {d : Ident} {e : Byte} {k : Word16} {p : Nat}
    (hshape : s.cand.rows = 1) (hm : FirstMatch s.cand true p) (hroom : p + 60 ≤ s.cand.nbits)
    (hb : HoldsRow s.cand true (p + 12) (Payload.ofFields c d e k)) :
    ∃ t, frameTransaction c (polyFor c) d e k s = .next t ∧ TransactionEnd s t := by
  have hc : (Payload.ofFields c d e k).chan = c := Payload.chan_ofFields c d e k
  have hs : s.cand.rows = 1 ∧ 60 ≤ s.cand.nbits := ⟨hshape, by omega⟩
  rw [frameTransaction_located hshape hm hroom]
  generalize Payload.ofFields c d e k = b at hb hc
  subst hc
  by_cases hz : b.ident = 0#20 ∧ b.ckt = 0#16
  · refine ⟨_, ?_, .zeroCollision hs p hm hroom b hb hz⟩
    rw [execZchk, if_pos (by simpa using zeroCollision_iff.2 hz), thenStage_done (by rfl)]
    rfl
  rw [execZchk, if_neg (by simpa [zeroCollision_iff] using hz), thenStage_next (by simp), execCrc,
    thenStage_next (by simp), execCmp]
  by_cases hk : b.ckt = crc16 (polyFor b.chan) b.covered
  · refine ⟨_, ?_, .accepted hs p hm hroom b hb hz hk⟩
    rw [if_pos (by simpa [checksumOk_iff] using hk), thenStage_next (by simp), execEvdec, eventState_eq,
      eventHeartbeat_eq]
    rfl
  · refine ⟨_, ?_, .crcMismatch hs p hm hroom b hb hz hk⟩
    rw [if_neg (by simpa [checksumOk_iff] using hk), thenStage_done (by rfl)]
    rfl

end Sys2Proof.Machine
end

