-- ==== Sys2Proof/Laws/Transaction.lean ====
section
/-! SUPPORT. DECODE (R140) in the terms of the row primitives: which case of it a candidate falls under. -/

namespace Sys2Proof.Machine

theorem bitsToNat_append (l : List Bool) (b : Bool) : bitsToNat (l ++ [b]) = 2 * bitsToNat l + b.toNat := by
  simp [bitsToNat]

theorem bitsToNat_testBit (l : List Bool) (i : Nat) (h : i < l.length) :
    (bitsToNat l).testBit (l.length - 1 - i) = l[i] := by
  induction l using List.reverseRecOn with
  | nil => simp at h
  | append_singleton l b ih =>
    rw [bitsToNat_append]
    simp only [List.length_append, List.length_singleton] at h ⊢
    by_cases hi : i = l.length
    · subst hi
      cases b <;> simp [Nat.testBit_zero]
    · have hlt : i < l.length := by omega
      rw [List.getElem_append_left hlt, ← ih hlt, show l.length + 1 - 1 - i = (l.length - 1 - i) + 1 by omega,
        Nat.testBit_succ]
      congr 1
      cases b <;> (simp; try omega)

theorem normalised_getElem? (c : Candidate) (i : Nat) : (normalised c)[i]? = rowBit c true i := by
  unfold normalised rowBit
  rw [List.getElem?_map]
  cases c.raw[i]? <;> simp

theorem normalised_length (c : Candidate) : (normalised c).length = c.nbits := by
  simp [normalised, Candidate.nbits]

/-- A field of the complemented row is what `RowBits` reads with `POL == 1`. -/
theorem fieldAt_eq {c : Candidate} {a n : Nat} (h : a + n ≤ c.nbits) :
    rowBits c true a n = some (fieldAt (normalised c) a n) := by
  rw [rowBits_eq_some_iff]
  intro j hj
  have hl : (((normalised c).drop a).take n).length = n := by
    simp [normalised_length]; omega
  have hbit : (fieldAt (normalised c) a n).getMsbD j = (((normalised c).drop a).take n)[j]'(by omega) := by
    rw [← bitsToNat_testBit _ _ (by omega), hl, fieldAt, BitVec.getMsbD_eq_getLsbD, BitVec.getLsbD_ofNat]
    simp [hj, show n - 1 - j < n by omega]
  rw [hbit, ← normalised_getElem?]
  simp only [List.getElem_take, List.getElem_drop]
  rw [List.getElem?_eq_getElem]

theorem preambleBits_length : preambleBits.length = 12 := by decide

theorem preambleBits_getElem (j : Nat) (h : j < 12) : preambleBits[j]? = some ((0b111111111110#12).getMsbD j) := by
  interval_cases j <;> rfl

/-- The window test of R140 is a match. -/
theorem window_eq_iff {c : Candidate} {p : Nat} (hp : p + 12 ≤ c.nbits) :
    (((normalised c).drop p).take 12 == preambleBits) = true ↔ MatchAt c true p := by
  rw [beq_iff_eq]
  constructor
  · intro h
    refine ⟨hp, fun j hj => ?_⟩
    rw [← preambleBits_getElem j hj, ← h, ← normalised_getElem?, List.getElem?_take_of_lt hj, List.getElem?_drop]
  · intro h
    apply List.ext_getElem?
    intro j
    by_cases hj : j < 12
    · rw [List.getElem?_take_of_lt hj, List.getElem?_drop, normalised_getElem?, h.2 j hj, preambleBits_getElem j hj]
    · rw [List.getElem?_eq_none (by simp; omega), List.getElem?_eq_none (by rw [preambleBits_length]; omega)]

theorem mem_matchOffsets {c : Candidate} {p : Nat} : p ∈ matchOffsets (normalised c) ↔ MatchAt c true p := by
  unfold matchOffsets
  rw [List.mem_filter, List.mem_range, normalised_length]
  constructor
  · rintro ⟨h1, h2⟩
    exact (window_eq_iff (by omega)).1 h2
  · intro h
    have := h.1
    exact ⟨by omega, (window_eq_iff h.1).2 h⟩

theorem matchOffsets_eq_nil {c : Candidate} (h : ∀ p, ¬ MatchAt c true p) : matchOffsets (normalised c) = [] :=
  List.eq_nil_iff_forall_not_mem.2 fun p hp => h p (mem_matchOffsets.1 hp)

/-- The minimum of R140's set `M` is the first match. -/
theorem matchOffsets_head {c : Candidate} {p : Nat} (h : FirstMatch c true p) :
    ∃ l, matchOffsets (normalised c) = p :: l := by
  have hmem := mem_matchOffsets.2 h.1
  cases hl : matchOffsets (normalised c) with
  | nil => rw [hl] at hmem; cases hmem
  | cons q l =>
    have hq : MatchAt c true q := mem_matchOffsets.1 (by rw [hl]; simp)
    have hsorted : (matchOffsets (normalised c)).Pairwise (· < ·) := List.pairwise_lt_range.filter _
    rw [hl] at hmem hsorted
    rcases List.mem_cons.1 hmem with rfl | hin
    · exact ⟨l, rfl⟩
    · exact absurd hq (h.2 q ((List.pairwise_cons.1 hsorted).1 p hin))

/-- R140's arithmetic forms of the views are the views. -/
theorem ident_arith (b0 b1 b2 : Byte) :
    ((b0.setWidth 20 &&& 0x0F#20) <<< 16) ||| (b1.setWidth 20 <<< 8) ||| b2.setWidth 20 =
      b0.extractLsb' 0 4 ++ b1 ++ b2 := by
  apply BitVec.eq_of_getLsbD_eq
  intro i hi
  simp only [BitVec.getLsbD_or, BitVec.getLsbD_shiftLeft, BitVec.getLsbD_setWidth, BitVec.getLsbD_append,
    BitVec.getLsbD_extractLsb', BitVec.getLsbD_and]
  interval_cases i <;> simp

theorem ckt_arith (b4 b5 : Byte) : (b4.setWidth 16 <<< 8) ||| b5.setWidth 16 = b4 ++ b5 := by
  apply BitVec.eq_of_getLsbD_eq
  intro i hi
  simp only [BitVec.getLsbD_or, BitVec.getLsbD_shiftLeft, BitVec.getLsbD_setWidth, BitVec.getLsbD_append]
  interval_cases i <;> simp

theorem chan_arith (b0 : Byte) : (b0 >>> 4).setWidth 4 = b0.extractLsb' 4 4 := by
  apply BitVec.eq_of_getLsbD_eq
  intro i hi
  simp only [BitVec.getLsbD_setWidth, BitVec.getLsbD_ushiftRight, BitVec.getLsbD_extractLsb', hi]

/-- DECODE of a candidate with a located payload, in the terms of the buffer that holds it. -/
theorem decodeCandidate_located {c : Candidate} {p : Nat} {b : Payload} (hrows : c.rows = 1)
    (hm : FirstMatch c true p) (hroom : p + 60 ≤ c.nbits) (hb : HoldsRow c true (p + 12) b) :
    decodeCandidate c =
      if b.ident = 0#20 ∧ b.ckt = 0#16 then .notRecognized
      else if b.ckt ≠ crc16 (polyFor b.chan) b.covered then .notRecognized
      else .accepted ⟨b.ident, b.chan, b.evt, b.evt.getLsbD 7, b.evt.getLsbD 2⟩ := by
  have hn : c.raw.length = c.nbits := rfl
  obtain ⟨l, hl⟩ := matchOffsets_head hm
  have hf : ∀ k : Fin 6, fieldAt (normalised c) (p + 12 + 8 * k.val) 8 = b.read k := by
    intro k
    have h1 := hb k
    rw [fieldAt_eq (by have := k.isLt; omega)] at h1
    simpa using h1
  have h0 := hf 0; have h1 := hf 1; have h2 := hf 2; have h3 := hf 3; have h4 := hf 4; have h5 := hf 5
  simp only [Payload.read, Fin.isValue, Fin.val_zero, Fin.val_one, show ((2 : Fin 6) : Nat) = 2 from rfl,
    show ((3 : Fin 6) : Nat) = 3 from rfl, show ((4 : Fin 6) : Nat) = 4 from rfl,
    show ((5 : Fin 6) : Nat) = 5 from rfl, Nat.mul_zero, Nat.add_zero, Nat.mul_one, Nat.reduceMul, Nat.add_assoc,
    Nat.reduceAdd] at h0 h1 h2 h3 h4 h5
  rw [decodeCandidate, if_neg (by omega)]
  simp only [hl, normalised_length]
  rw [if_neg (by omega)]
  simp only [h0, h1, h2, h3, h4, h5, ident_arith, ckt_arith, chan_arith]
  rw [← polyFor_eq]
  rfl

/-- DECODE recognizes nothing when a check before the extraction fails. -/
theorem decodeCandidate_unshaped {c : Candidate} (h : ¬ (c.rows = 1 ∧ 60 ≤ c.nbits)) :
    decodeCandidate c = .notRecognized := by
  have hn : c.raw.length = c.nbits := rfl
  rw [decodeCandidate, if_pos (by omega)]

theorem decodeCandidate_unmatched {c : Candidate} (h : ∀ p, ¬ MatchAt c true p) :
    decodeCandidate c = .notRecognized := by
  rw [decodeCandidate]
  split
  · rfl
  · simp only [matchOffsets_eq_nil h]

theorem decodeCandidate_truncated {c : Candidate} {p : Nat} (hm : FirstMatch c true p) (hr : c.nbits < p + 60) :
    decodeCandidate c = .notRecognized := by
  obtain ⟨l, hl⟩ := matchOffsets_head hm
  rw [decodeCandidate]
  split
  · rfl
  · simp only [hl, normalised_length]
    rw [if_pos (by omega)]

end Sys2Proof.Machine
end

