-- ==== Sys2Proof/Tests/Slice0.lean ====
section
/-! SUPPORT. Tests and witnesses. Expected values come from the spec: the worked vectors of 95_test_vectors.md (S, L,
X, A, K, E, Q), the examples of the stage rules, and the table of single-bit checksums in 43_checksum_validator.md
R150, whose entries add up (XOR) to the checksum of a message. A witness shows that an obligation's hypotheses can be
met together, at the boundary values of each clause. -/

namespace Sys2Proof.Tests

open Sys2Proof Sys2Proof.Machine

-- One proof at a time: checked all at once, this file's evaluations ask for more threads than the memory limit allows.
set_option Elab.async false

/-! ### Helpers -/

/-- A candidate of one row, written `{n}HEX` with the padding dropped: `n` bits as one number. -/
def row (n w : Nat) : Candidate := ⟨1, natToBits n w⟩

/-- The block in a stage with a candidate, everything else as after reset. -/
def inStage (st : Stage) (c : Candidate) : State := { State.reset with stage := st, cand := c }

/-- A resting block with `start == 1` and a candidate. -/
def starting (c : Candidate) : State := { State.reset with cand := c, start := true }

/-- The next state of an answer, if there is one. -/
def next? (a : Answer) : Option State :=
  match a with
  | .next s => some s
  | .fault _ => none
  | .refused _ => none

/-- What the host sees of an answer's next state. -/
def seen (a : Answer) : Option Observation := (next? a).map State.observe

/-- The payload buffer of six bytes. -/
def bytes (b0 b1 b2 b3 b4 b5 : Byte) : Payload := ⟨b0, b1, b2, b3, b4, b5⟩

/-- The candidates S1, L2 and A8, and the row of forty 0s before frame S1 (X2) and the same one bit short (X3). -/
def s1 : Candidate := row 60 0x0017EDCBA7F7479
/-- L2. -/
def l2 : Candidate := row 68 0xB000BF6E5D3FBA3CA
/-- A8. -/
def a8 : Candidate := row 60 0x0017FFFFF7FFFFF
/-- X2. -/
def x2 : Candidate := row 100 0xFFFFFFFFFF0017EDCBA7F7479
/-- X3: 99 bits, so the notation's last digit loses its padding bit. -/
def x3 : Candidate := row 99 (0xFFFFFFFFFF0017EDCBA7F7478 / 2)
/-- L6: all ones once normalised, so no preamble. -/
def l6 : Candidate := row 64 0x0000000000000000

/-! ### Well-formedness: each check refuses a term that breaks it -/

theorem test_wf_row_bits_bound_below_60_refused : Params.wellFormed ⟨some 59, some 2⟩ = false := by decide
theorem test_wf_rows_bound_below_2_refused : Params.wellFormed ⟨some 60, some 1⟩ = false := by decide
theorem test_wf_least_bounds_accepted : Params.wellFormed ⟨some 60, some 2⟩ = true := by decide
theorem test_wf_long_row_not_admitted : Params.admits ⟨some 60, some 2⟩ 1 61 = false := by decide
theorem test_wf_many_rows_not_admitted : Params.admits ⟨some 60, some 2⟩ 3 60 = false := by decide
/-- R7: `MAX_ROW_BITS = 60` needs 6 bits, 64 needs 7; `MAX_ROWS = 2` needs 2. -/
theorem test_register_widths : Params.widthOf 60 = 6 ∧ Params.widthOf 64 = 7 ∧ Params.widthOf 2 = 2 := by
  simp only [Params.widthOf]
  norm_num [Nat.clog]

/-! ### Decoding: every word is written out from R95 and R88 -/

theorem test_decode_idle :
    decodeBits [false, false, false, false] = .ok .idle ∧ decodeTableWord 8 0 = some .idle := by
  decide +kernel
theorem test_decode_shape :
    decodeBits [false, false, false, true] = .ok .shape ∧ decodeTableWord 8 1 = some .shape := by
  decide +kernel
theorem test_decode_invert :
    decodeBits [false, false, true, false] = .ok .invert ∧ decodeTableWord 8 2 = some .invert := by
  decide +kernel
theorem test_decode_search :
    decodeBits [false, false, true, true] = .ok .search ∧ decodeTableWord 8 3 = some .search := by
  decide +kernel
theorem test_decode_bound :
    decodeBits [false, true, false, false] = .ok .bound ∧ decodeTableWord 8 4 = some .bound := by
  decide +kernel
theorem test_decode_extract :
    decodeBits [false, true, false, true] = .ok .extract ∧ decodeTableWord 8 5 = some .extract := by
  decide +kernel
theorem test_decode_zchk :
    decodeBits [false, true, true, false] = .ok .zchk ∧ decodeTableWord 8 6 = some .zchk := by
  decide +kernel
theorem test_decode_psel :
    decodeBits [false, true, true, true] = .ok .psel ∧ decodeTableWord 8 7 = some .psel := by
  decide +kernel
theorem test_decode_crc :
    decodeBits [true, false, false, false] = .ok .crc ∧ decodeTableWord 8 8 = some .crc := by
  decide +kernel
theorem test_decode_cmp :
    decodeBits [true, false, false, true] = .ok .cmp ∧ decodeTableWord 8 9 = some .cmp := by
  decide +kernel
theorem test_decode_evdec :
    decodeBits [true, false, true, false] = .ok .evdec ∧ decodeTableWord 8 10 = some .evdec := by
  decide +kernel
theorem test_decode_done :
    decodeBits [true, false, true, true] = .ok .done ∧ decodeTableWord 8 11 = some .done := by
  decide +kernel

theorem test_decode_reserved_stage_refused :
    decodeBits [true, true, false, false] = .error (.reservedStage 12) ∧ decodeTableWord 8 15 = none ∧
      decodeTableWord 8 16 = none := by
  decide +kernel
/-- R99: `f[0]` flipped (L8), `f[11]` flipped (L10). -/
theorem test_decode_no_preamble_refused :
    decode (.frame 0x7FE812345808B86) = .error (.noPreamble 0x7FE812345808B86) ∧
      decode (.frame 0xFFF812345808B86) = .error (.noPreamble 0xFFF812345808B86) := by
  decide +kernel
theorem test_decode_other_length_refused : decodeBits [true, true, true, true, true] = .error (.badLength 5) := by
  decide +kernel

/-- The frame of P1 bit by bit: preamble, channel, identity, event byte, checksum. -/
theorem test_decode_frame_bits :
    decodeBits
      ([true, true, true, true, true, true, true, true, true, true, true, false] ++ [true, false, false, false] ++
        [false, false, false, true, false, false, true, false, false, false, true, true, false, true, false, false,
          false, true, false, true] ++
        [true, false, false, false, false, false, false, false] ++
        [true, false, false, false, true, false, true, true, true, false, false, false, false, true, true, false]) =
      .ok (.frameCh8 0x12345 0x80 0x8B86) := by
  decide +kernel
theorem test_decode_frameCh0 : decodeTableWord 64 0xFFE08001F7EA5C3 = some (.frameCh0 0x8001F 0x7E 0xA5C3) := by decide +kernel
theorem test_decode_frameCh1 : decodeTableWord 64 0xFFE18001F7EA5C3 = some (.frameCh1 0x8001F 0x7E 0xA5C3) := by decide +kernel
theorem test_decode_frameCh2 : decodeTableWord 64 0xFFE28001F7EA5C3 = some (.frameCh2 0x8001F 0x7E 0xA5C3) := by decide +kernel
theorem test_decode_frameCh3 : decodeTableWord 64 0xFFE38001F7EA5C3 = some (.frameCh3 0x8001F 0x7E 0xA5C3) := by decide +kernel
theorem test_decode_frameCh4 : decodeTableWord 64 0xFFE48001F7EA5C3 = some (.frameCh4 0x8001F 0x7E 0xA5C3) := by decide +kernel
theorem test_decode_frameCh5 : decodeTableWord 64 0xFFE58001F7EA5C3 = some (.frameCh5 0x8001F 0x7E 0xA5C3) := by decide +kernel
theorem test_decode_frameCh6 : decodeTableWord 64 0xFFE68001F7EA5C3 = some (.frameCh6 0x8001F 0x7E 0xA5C3) := by decide +kernel
theorem test_decode_frameCh7 : decodeTableWord 64 0xFFE78001F7EA5C3 = some (.frameCh7 0x8001F 0x7E 0xA5C3) := by decide +kernel
theorem test_decode_frameCh8 : decodeTableWord 64 0xFFE88001F7EA5C3 = some (.frameCh8 0x8001F 0x7E 0xA5C3) := by decide +kernel
theorem test_decode_frameCh9 : decodeTableWord 64 0xFFE98001F7EA5C3 = some (.frameCh9 0x8001F 0x7E 0xA5C3) := by decide +kernel
theorem test_decode_frameChA : decodeTableWord 64 0xFFEA8001F7EA5C3 = some (.frameChA 0x8001F 0x7E 0xA5C3) := by decide +kernel
theorem test_decode_frameChB : decodeTableWord 64 0xFFEB8001F7EA5C3 = some (.frameChB 0x8001F 0x7E 0xA5C3) := by decide +kernel
theorem test_decode_frameChC : decodeTableWord 64 0xFFEC8001F7EA5C3 = some (.frameChC 0x8001F 0x7E 0xA5C3) := by decide +kernel
theorem test_decode_frameChD : decodeTableWord 64 0xFFED8001F7EA5C3 = some (.frameChD 0x8001F 0x7E 0xA5C3) := by decide +kernel
theorem test_decode_frameChE : decodeTableWord 64 0xFFEE8001F7EA5C3 = some (.frameChE 0x8001F 0x7E 0xA5C3) := by decide +kernel
theorem test_decode_frameChF : decodeTableWord 64 0xFFEF8001F7EA5C3 = some (.frameChF 0x8001F 0x7E 0xA5C3) := by decide +kernel

/-! ### Reset -/

/-- R50, R190; Q1: with nothing driven the block stays in IDLE. -/
theorem test_reset_observation : State.reset.observe = ⟨false, false, none⟩ := by decide
theorem test_q1_reset_step : next? (step State.reset) = some State.reset := by decide +kernel

/-! ### The stages -/

/-- R131, in IDLE. -/
theorem test_idle_start : next? (exec .idle (starting s1)) = some { starting s1 with stage := .shape } := by
  decide +kernel
/-- A5 and A1: 60 bits pass, 59 do not. -/
theorem test_shape_length :
    next? (exec .shape (inStage .shape s1)) = some { inStage .shape s1 with stage := .invert } ∧
      seen (exec .shape (inStage .shape (row 59 (0x0017EDCBA7F7478 / 2)))) =
        some ⟨false, true, some (false, Record.zero)⟩ := by
  decide +kernel
/-- A2 and A3: two rows, no row. -/
theorem test_shape_rows :
    (next? (exec .shape (inStage .shape { s1 with rows := 2 }))).map (fun t => (t.stage, t.reason, t.pol)) =
        some (.done, some .shortBuffer, false) ∧
      (next? (exec .shape (inStage .shape { s1 with rows := 0 }))).map State.stage = some .done := by
  decide +kernel
/-- L1: the presented row `{12}001` reads as the preamble once INVERT has run. -/
theorem test_invert_preamble :
    (next? (exec .invert (inStage .invert (row 12 0x001)))).map (fun t => (t.stage, rowBits t.cand t.pol 0 12)) =
      some (.search, some 0xFFE#12) := by
  decide +kernel
/-- L2, L4: the first match is at 5 and at 10. -/
theorem test_search_found :
    (next? (exec .search { inStage .search l2 with pol := true })).map (fun t => (t.stage, t.found, t.pos)) =
        some (.bound, true, 5) ∧
      (next? (exec .search
          { inStage .search (row 70 (0x800005FB72E9FDD1E4 / 4)) with pol := true })).map
          (fun t => (t.found, t.pos)) = some (true, 10) := by
  decide +kernel
/-- L6, and L9 whose match is the last 12 bits of the row. -/
theorem test_search_none_and_last :
    (next? (exec .search { inStage .search l6 with pol := true, found := true, pos := 7 })).map
        (fun t => (t.stage, t.found, t.pos)) = some (.bound, false, 0) ∧
      (next? (exec .search { inStage .search (row 64 0xFFFFFFFFFFFFF001) with pol := true })).map
        (fun t => (t.found, t.pos)) = some (true, 52) := by
  decide +kernel
/-- R120's examples: 100 bits and 99 bits with the match at 40. -/
theorem test_bound_room :
    (next? (exec .bound { inStage .bound x2 with found := true, pos := 40 })).map State.stage = some .extract ∧
      (next? (exec .bound { inStage .bound x3 with found := true, pos := 40 })).map
        (fun t => (t.stage, t.reason)) = some (.done, some .truncated) := by
  decide +kernel
theorem test_bound_no_match :
    (next? (exec .bound (inStage .bound l6))).map (fun t => (t.stage, t.reason)) = some (.done, some .noPreamble) := by
  decide +kernel
/-- X1 and X5. -/
theorem test_extract :
    (next? (exec .extract { inStage .extract s1 with pol := true, found := true })).map
        (fun t => (t.stage, t.buf)) = some (.zchk, bytes 0x81 0x23 0x45 0x80 0x8B 0x86) ∧
      (next? (exec .extract { inStage .extract l2 with pol := true, found := true, pos := 5 })).map State.buf =
        some (bytes 0x81 0x23 0x45 0x80 0x8B 0x86) := by
  decide +kernel
/-- R134's examples, A8 and A9. -/
theorem test_zchk :
    (next? (exec .zchk { inStage .zchk a8 with buf := bytes 0x80 0 0 0x80 0 0 })).map
        (fun t => (t.stage, t.reason)) = some (.done, some .zeroCollision) ∧
      (next? (exec .zchk { inStage .zchk a8 with buf := bytes 0x80 0 0 0 0x80 0x3F })).map State.stage =
        some .psel := by
  decide +kernel
/-- A10: a zero checksum alone does not reject. -/
theorem test_zchk_zero_checksum_alone :
    (next? (exec .zchk { inStage .zchk a8 with buf := bytes 0x80 0x83 0x03 0 0 0 })).map State.stage = some .psel := by
  decide +kernel
/-- Section 2.4: the sixteen channels. -/
theorem test_psel_all_channels :
    ((List.range 16).map fun n =>
        (next? (exec .psel { inStage .psel s1 with buf := bytes (BitVec.ofNat 8 (16 * n + 1)) 0x23 0 0 0 0 })).map
          State.poly) =
      (List.range 16).map fun n => some (if n = 2 ∨ n = 10 then 0x8050#16 else 0x8005#16) := by
  decide +kernel
/-- K1 and K2, with the running register after the first byte. -/
theorem test_crc :
    (next? (exec .crc { inStage .crc s1 with buf := bytes 0x81 0x23 0x45 0x80 0 0, poly := 0x8005 })).map
        (fun t => (t.stage, t.ckc)) = some (.cmp, 0x8B86) ∧
      (next? (exec .crc { inStage .crc s1 with buf := bytes 0x21 0x23 0x45 0x80 0 0, poly := 0x8050 })).map
        State.ckc = some 0x1E10 ∧
      crc16 0x8005 [0x81] = 0x0306 ∧ crc16 0x8050 [0x21] = 0x0C60 := by
  decide +kernel
/-- The shifts of K1's first byte one by one. -/
theorem test_crc_shifts :
    (List.range 9).map (fun n => crcShifts 0x8005 n 0x8100) =
      [0x8100, 0x8205, 0x840F, 0x881B, 0x9033, 0xA063, 0xC0C3, 0x0183, 0x0306] := by
  decide +kernel
/-- R152's example (K2), and K9, one bit off. -/
theorem test_cmp :
    (next? (exec .cmp { inStage .cmp s1 with buf := bytes 0x21 0x23 0x45 0x80 0x1E 0x10, ckc := 0x1E10 })).map
        State.stage = some .evdec ∧
      (next? (exec .cmp { inStage .cmp s1 with buf := bytes 0x21 0x23 0x45 0x80 0x1E 0x11, ckc := 0x1E10 })).map
        (fun t => (t.stage, t.reason, t.accept)) = some (.done, some .crcMismatch, false) := by
  decide +kernel
/-- E5 and E2: reserved bits echoed; the two flags apart. -/
theorem test_evdec :
    seen (exec .evdec { inStage .evdec s1 with buf := bytes 0x81 0x23 0x45 0xFB 0x8A 0x9C }) =
        some ⟨false, true, some (true, ⟨0x12345, 0x8, 0xFB, true, false⟩)⟩ ∧
      seen (exec .evdec { inStage .evdec s1 with buf := bytes 0x81 0x23 0x45 0x04 0x88 0x9E }) =
        some ⟨false, true, some (true, ⟨0x12345, 0x8, 0x04, false, true⟩)⟩ := by
  decide +kernel
/-- Q4 and Q5: a result is held with `start == 0` and cleared with `start == 1`. -/
theorem test_done :
    next? (exec .done { inStage .done s1 with accept := true, oId := 0x12345 }) =
        some { inStage .done s1 with accept := true, oId := 0x12345 } ∧
      next? (exec .done { inStage .done s1 with accept := true, oId := 0x12345, pol := true, start := true }) =
        some { inStage .shape s1 with start := true } := by
  decide +kernel

/-! ### The frame classes: one placed word each, run by the next step. The checksums of classes 1, 3 to 7, 9 and B to
F, of 2 and A, are sums of R150's entries for the channel bits alone; 0 and 8 are A11 and A9. -/

/-- What the host sees after a step from reset with a frame placed. -/
def afterFrame (w : Nat) : Option Observation := seen (step (State.reset.withFetchWord 64 w))

/-- The observation of an accepted record. -/
def acceptedAs (d : Ident) (c : Channel) (e : Byte) (state heartbeat : Bool) : Option Observation :=
  some ⟨false, true, some (true, ⟨d, c, e, state, heartbeat⟩)⟩

/-- The observation of a rejection. -/
def rejected : Option Observation := some ⟨false, true, some (false, Record.zero)⟩

theorem test_frameCh0 : afterFrame 0xFFE000000018005 = acceptedAs 0 0x0 0x01 false false := by decide +kernel
theorem test_frameCh1 : afterFrame 0xFFE100000004006 = acceptedAs 0 0x1 0x00 false false := by decide +kernel
theorem test_frameCh2 : afterFrame 0xFFE200000007030 = acceptedAs 0 0x2 0x00 false false := by decide +kernel
theorem test_frameCh3 : afterFrame 0xFFE30000000C00A = acceptedAs 0 0x3 0x00 false false := by decide +kernel
theorem test_frameCh4 : afterFrame 0xFFE40000000801D = acceptedAs 0 0x4 0x00 false false := by decide +kernel
theorem test_frameCh5 : afterFrame 0xFFE50000000C01B = acceptedAs 0 0x5 0x00 false false := by decide +kernel
theorem test_frameCh6 : afterFrame 0xFFE600000000011 = acceptedAs 0 0x6 0x00 false false := by decide +kernel
theorem test_frameCh7 : afterFrame 0xFFE700000004017 = acceptedAs 0 0x7 0x00 false false := by decide +kernel
theorem test_frameCh8 : afterFrame 0xFFE80000000803F = acceptedAs 0 0x8 0x00 false false := by decide +kernel
theorem test_frameCh9 : afterFrame 0xFFE90000000C039 = acceptedAs 0 0x9 0x00 false false := by decide +kernel
theorem test_frameChA : afterFrame 0xFFEA000000030A0 = acceptedAs 0 0xA 0x00 false false := by decide +kernel
theorem test_frameChB : afterFrame 0xFFEB00000004035 = acceptedAs 0 0xB 0x00 false false := by decide +kernel
theorem test_frameChC : afterFrame 0xFFEC00000000022 = acceptedAs 0 0xC 0x00 false false := by decide +kernel
theorem test_frameChD : afterFrame 0xFFED00000004024 = acceptedAs 0 0xD 0x00 false false := by decide +kernel
theorem test_frameChE : afterFrame 0xFFEE0000000802E = acceptedAs 0 0xE 0x00 false false := by decide +kernel
theorem test_frameChF : afterFrame 0xFFEF0000000C028 = acceptedAs 0 0xF 0x00 false false := by decide +kernel
/-- S2 and S3: the vendor family with the right and the wrong polynomial. -/
theorem test_frameCh2_polynomials :
    afterFrame 0xFFE212345801E10 = acceptedAs 0x12345 0x2 0x80 true false ∧ afterFrame 0xFFE212345808BB5 = rejected := by
  decide +kernel
/-- S1 and S5 (one identity bit flipped). -/
theorem test_frameCh8_round_trip :
    afterFrame 0xFFE812345808B86 = acceptedAs 0x12345 0x8 0x80 true false ∧ afterFrame 0xFFE812344808B86 = rejected := by
  decide +kernel
/-- K3 and K4. -/
theorem test_frameChA_polynomials :
    afterFrame 0xFFEA12345805E80 = acceptedAs 0x12345 0xA 0x80 true false ∧ afterFrame 0xFFEA12345800B8A = rejected := by
  decide +kernel
/-- A7: only ZCHK keeps this one out. -/
theorem test_frameChC_zero_collision :
    afterFrame 0xFFEC000000F0000 = rejected ∧
      (next? (step (State.reset.withFetchWord 64 0xFFEC000000F0000))).map State.reason = some (some .zeroCollision) := by
  decide +kernel
/-- X6: the greatest value of every field. -/
theorem test_frameChF_maxima : afterFrame 0xFFEFFFFFFFF8029 = acceptedAs 0xFFFFF 0xF 0xFF true true := by
  decide +kernel

/-- L3, L10, L11, L13: the whole function on candidates with no frame of their own placed. -/
theorem test_decode_candidate :
    decodeCandidate (row 65 (0x0000BF6E5D3FBA3C8 / 8)) = .accepted ⟨0x12345, 0x8, 0x80, true, false⟩ ∧
      decodeCandidate (row 60 0x0007EDCBA7F7479) = .notRecognized ∧
      decodeCandidate (row 84 0x001AAA0017EDCBA7F7479) = .notRecognized ∧
      decodeCandidate (row 60 0x0017001EDFF53DB) = .accepted ⟨0xFFE12, 0x8, 0x00, false, false⟩ := by
  decide +kernel

/-! ### Witnesses: the hypotheses of each obligation, met together -/

theorem s1_first_match : FirstMatch s1 true 0 := by
  unfold FirstMatch MatchAt
  decide +kernel
theorem l2_first_match : FirstMatch l2 true 5 := by
  unfold FirstMatch MatchAt
  decide +kernel
theorem x2_first_match : FirstMatch x2 true 40 := by
  unfold FirstMatch MatchAt
  decide +kernel
theorem x3_first_match : FirstMatch x3 true 40 := by
  unfold FirstMatch MatchAt
  decide +kernel
theorem a8_first_match : FirstMatch a8 true 0 := by
  unfold FirstMatch MatchAt
  decide +kernel
/-- L6 holds no preamble. -/
theorem l6_no_match : ∀ p, ¬ MatchAt l6 true p := by
  have h : ∀ p, p < 53 → ¬ ∀ j, j < 12 → rowBit l6 true (p + j) = some ((0b111111111110#12).getMsbD j) := by
    decide +kernel
  rintro p ⟨h1, h2⟩
  have hn : l6.nbits = 64 := by decide +kernel
  exact h p (by omega) h2

/-- A block in EXTRACT whose payload ends exactly at the end of its row (X2). -/
def inExtract : State := { inStage .extract x2 with pol := true, found := true, pos := 40 }

/-- A busy block that meets the invariant, at the boundary of BOUND's test. -/
theorem inExtract_inv : inExtract.Inv := by
  have hn : x2.nbits = 100 := by decide +kernel
  constructor <;>
    simp [inExtract, inStage, State.reached, State.upTo, Stage.atRest, Stage.code, State.record, Record.zero]
  · exact ⟨rfl, by omega⟩
  · exact ⟨x2_first_match, by omega⟩

/-- A block in DONE after a rejection. -/
def inRejected : State := { inStage .done l6 with pol := true, reason := some .noPreamble }

theorem inRejected_inv : inRejected.Inv := by
  constructor <;> simp [inRejected, inStage, State.reached, State.upTo, Stage.atRest, State.record, Record.zero]

theorem witness_ResetAtAnyTime :
    ({ inStage .crc s1 with host := [.reset, .wait] } : State).host = .reset :: [.wait] := rfl

/-- Both levels of `start`. -/
theorem witness_RestStagesHoldOrStart : State.reset.start = false ∧ (starting s1).start = true := by decide +kernel

/-- Both resting stages. -/
theorem witness_RestIsStable :
    (State.reset.stage.atRest = true ∧ State.reset.start = false ∧ State.reset.host = []) ∧
      inRejected.stage.atRest = true ∧ inRejected.start = false ∧ inRejected.host = [] := by
  decide +kernel

theorem witness_DecodeBitsOfEncodedOperation :
    Instr.evdec.wellFormed = true ∧ (Instr.frameChF 0xFFFFF 0xFF 0xFFFF).wellFormed = true := by decide

theorem witness_EncodingIsUnique :
    decode (.stage 0b1011) = .ok .done ∧ decode (.frame 0xFFE812345808B86) = .ok (.frameCh8 0x12345 0x80 0x8B86) := by
  decide +kernel

/-- The last bit of S1's row, and the first address outside it. -/
theorem witness_RowBitDefinedExactlyInsideRow : 59 < s1.raw.length ∧ s1.raw.length ≤ 60 := by decide +kernel

/-- A read that ends at the end of the row, and one that ends one bit further. -/
theorem witness_RowBitsIsWeightedSum :
    (1 ≤ 8 ∧ 52 + 8 ≤ s1.raw.length) ∧ 1 ≤ 8 ∧ s1.raw.length < 53 + 8 := by decide +kernel

theorem witness_ViewsAreRowFieldsAfterExtract :
    (next? (exec .extract inExtract)).map State.buf = some (bytes 0x81 0x23 0x45 0x80 0x8B 0x86) := by decide +kernel

/-- 60 bits and 59, one row, none and two. -/
theorem witness_ShapeRejectsUnlessOneLongRow :
    (s1.rows = 1 ∧ 60 ≤ s1.nbits) ∧ (row 59 0).nbits < 60 ∧ ({ s1 with rows := 0 } : Candidate).rows ≠ 1 ∧
      ({ s1 with rows := 2 } : Candidate).rows ≠ 1 := by
  decide +kernel

theorem witness_InvertComplementsWholeRow :
    (next? (exec .invert (inStage .invert s1))).isSome = true ∧ 59 < s1.raw.length := by decide +kernel

/-- The three cases of BOUND, with `POS + 60` at `NBITS` and one above it. -/
theorem witness_BoundRejectsMissingOrTruncated :
    (inStage .bound l6).found = false ∧ x3.nbits - 40 - 12 < 48 ∧ 48 ≤ x2.nbits - 40 - 12 := by decide +kernel

theorem witness_ExtractCopiesPayloadMsbFirst : inExtract.pos + 60 ≤ inExtract.cand.nbits := by decide +kernel

/-- One bit short. -/
theorem witness_ExtractFaultsOutsideRow :
    ({ inExtract with cand := x3 } : State).cand.nbits < ({ inExtract with cand := x3 } : State).pos + 60 := by
  decide +kernel

/-- Identity and checksum zero (A8), and the smallest payloads with only one of them zero. -/
theorem witness_ZchkRejectsExactlyZeroIdentityAndChecksum :
    (∃ s : State, s.buf.b0 &&& 0x0F = 0 ∧ s.buf.b1 = 0 ∧ s.buf.b2 = 0 ∧ s.buf.b4 = 0 ∧ s.buf.b5 = 0) ∧
    (∃ s : State, s.buf.ident = 0 ∧
      ¬ (s.buf.b0 &&& 0x0F = 0 ∧ s.buf.b1 = 0 ∧ s.buf.b2 = 0 ∧ s.buf.b4 = 0 ∧ s.buf.b5 = 0)) ∧
    ∃ s : State, s.buf.ckt = 0 ∧
      ¬ (s.buf.b0 &&& 0x0F = 0 ∧ s.buf.b1 = 0 ∧ s.buf.b2 = 0 ∧ s.buf.b4 = 0 ∧ s.buf.b5 = 0) :=
  ⟨⟨{ inStage .zchk a8 with buf := bytes 0x80 0 0 0x80 0 0 }, by decide⟩,
    ⟨{ inStage .zchk a8 with buf := bytes 0x80 0 0 0x80 0 0x01 }, by decide⟩,
    { inStage .zchk a8 with buf := bytes 0x81 0 0 0x80 0 0 }, by decide⟩

theorem witness_CmpAcceptsOnlyEqualChecksums :
    (0x8B#8).toNat * 256 + (0x86#8).toNat = (0x8B86#16).toNat ∧
      (0x8B#8).toNat * 256 + (0x87#8).toNat ≠ (0x8B86#16).toNat := by decide

/-- Two event bytes with equal flag bits, and a reserved bit. -/
theorem witness_ReservedEventBitsEchoed :
    0xFB#8 &&& 0x84 = 0x80#8 &&& 0x84 ∧ (6 : Fin 8) ≠ 7 ∧ (6 : Fin 8) ≠ 2 ∧
      (next? (exec .evdec (inStage .evdec s1))).isSome = true := by
  decide +kernel

/-- S2, a vendor-family candidate. -/
theorem witness_VendorChecksumLowNibbleZero :
    decodeCandidate (row 60 0x001DEDCBA7FE1EF) = .accepted ⟨0x12345, 0x2, 0x80, true, false⟩ ∧
      FirstMatch (row 60 0x001DEDCBA7FE1EF) true 0 := by
  refine ⟨by decide +kernel, ?_⟩
  unfold FirstMatch MatchAt
  decide +kernel

/-- A frame to accept (L2), one with another checksum (K6) and one with identity and checksum zero (A8). -/
theorem witness_FrameOperationDecodesItsFields :
    ((starting l2).stage.atRest = true ∧ (starting l2).start = true ∧ l2.rows = 1 ∧ FirstMatch l2 true 5 ∧
      rowBits l2 true 5 60 = some (frameWord 0x8 0x12345 0x80 0x8B86)) ∧
      rowBits (row 60 0x0017EDCBA7F7478) true 0 60 = some (frameWord 0x8 0x12345 0x80 0x8B87) ∧
      a8.rows = 1 ∧ FirstMatch a8 true 0 ∧ rowBits a8 true 0 60 = some (frameWord 0x8 0 0x80 0) :=
  ⟨⟨by decide, by decide +kernel, by decide +kernel, l2_first_match, by decide +kernel⟩, by decide +kernel,
    by decide +kernel, a8_first_match, by decide +kernel⟩

/-- A row too short, a row without a preamble, and a row one bit short after it (X3). -/
theorem witness_FrameOperationRejectsWhereNoFrameFits :
    (starting l6).stage.atRest = true ∧ (starting l6).start = true ∧ (row 59 0).nbits < 60 ∧
      (l6.rows = 1 ∧ 60 ≤ l6.nbits ∧ ∀ p, ¬ MatchAt l6 true p) ∧
      x3.rows = 1 ∧ 60 ≤ x3.nbits ∧ FirstMatch x3 true 40 ∧ x3.nbits < 40 + 60 :=
  ⟨by decide, by decide +kernel, by decide +kernel, ⟨by decide +kernel, by decide +kernel, l6_no_match⟩,
    by decide +kernel, by decide +kernel, x3_first_match, by decide +kernel⟩

theorem witness_FrameNotStartedLeavesBlockToItsStage :
    (inStage .crc s1).stage.atRest = false ∧ State.reset.start = false := by decide +kernel

theorem witness_StagesComputeDecode :
    (starting s1).stage.atRest = true ∧ (starting s1).start = true ∧ (starting s1).host = [] ∧
      (starting s1).grain = .stage := by
  decide +kernel

theorem witness_FrameOperationEqualsStages :
    (starting l2).stage.atRest = true ∧ (starting l2).start = true ∧ (starting l2).host = [] ∧
      (starting l2).grain = .stage ∧ locateFrame (starting l2).cand = some (some 0xFFE812345808B86) ∧
      decode (.frame 0xFFE812345808B86) = .ok (.frameCh8 0x12345 0x80 0x8B86) := by
  decide +kernel

/-- Each clause: two rows; 59 bits; A8's zero fields; the checksum stage; the checks. -/
theorem witness_DocumentedDecodeProperties :
    (({ s1 with rows := 2 } : Candidate).rows ≠ 1 ∧ (starting { s1 with rows := 2 }).stage.atRest = true ∧
      (starting { s1 with rows := 2 }).start = true ∧ (starting { s1 with rows := 2 }).host = []) ∧
      (row 59 0).nbits < 60 ∧
      (FirstMatch a8 true 0 ∧ rowBits a8 true (0 + 16) 20 = some 0 ∧ rowBits a8 true (0 + 44) 16 = some 0) ∧
      (next? (exec .crc (inStage .crc s1))).isSome = true ∧ Instr.cmp ∈ [Instr.shape, .bound, .zchk, .cmp] :=
  ⟨by decide +kernel, by decide +kernel, ⟨a8_first_match, by decide +kernel, by decide +kernel⟩, by decide +kernel,
    by decide⟩

theorem s1_accepted : decodeCandidate s1 = .accepted ⟨0x12345, 0x8, 0x80, true, false⟩ := by decide +kernel

theorem witness_AcceptedRecordIsFrameFields :
    decodeCandidate s1 = .accepted ⟨0x12345, 0x8, 0x80, true, false⟩ ∧ FirstMatch s1 true 0 :=
  ⟨s1_accepted, s1_first_match⟩

/-- S1's frame alone, and the same frame at offset 40 (X2), where it ends the row. -/
theorem witness_OutcomeDependsOnlyOnFirstFrame :
    s1.rows = 1 ∧ x2.rows = 1 ∧ FirstMatch s1 true 0 ∧ FirstMatch x2 true 40 ∧ 0 + 60 ≤ s1.nbits ∧
      40 + 60 ≤ x2.nbits ∧ ∀ j, j < 60 → rowBit s1 true (0 + j) = rowBit x2 true (40 + j) :=
  ⟨by decide +kernel, by decide +kernel, s1_first_match, x2_first_match, by decide +kernel, by decide +kernel,
    by decide +kernel⟩

/-- The first and the last payload bit of S1. -/
theorem witness_SingleBitCorruptionRejected :
    decodeCandidate s1 = .accepted ⟨0x12345, 0x8, 0x80, true, false⟩ ∧ FirstMatch s1 true 0 ∧ 0 < 48 ∧ 47 < 48 :=
  ⟨s1_accepted, s1_first_match, by decide, by decide⟩

/-- A transaction to accept, and one for each rejection. -/
theorem witness_RejectionLabelIsFirstFailingCheck :
    ∀ c ∈ [s1, { s1 with rows := 2 }, l6, x3, a8, row 60 0x0017EDCBA7F7478],
      (starting c).stage.atRest = true ∧ (starting c).start = true ∧ (starting c).host = [] ∧
        (starting c).grain = .stage := by
  decide +kernel

/-- A block after reset and one that holds an earlier result, started on one candidate. -/
theorem witness_NothingSurvivesATransaction :
    (starting s1).stage.atRest = true ∧ ({ inRejected with cand := s1, start := true } : State).stage.atRest = true ∧
      (starting s1).start = true ∧ ({ inRejected with cand := s1, start := true } : State).start = true ∧
      (starting s1).cand = ({ inRejected with cand := s1, start := true } : State).cand ∧
      (starting s1).host = [] ∧ ({ inRejected with cand := s1, start := true } : State).host = [] ∧
      (starting s1).grain = ({ inRejected with cand := s1, start := true } : State).grain := by
  decide +kernel

/-- A stage fetched with no host action, and a frame fetched after the host presents it. -/
theorem witness_StepRunsDecodedOperation :
    (hostPhase inExtract = .run inExtract ∧ fetchWord inExtract = some (.stage 5) ∧
      decode (.stage 5) = .ok .extract ∧ inExtract.host = [] ∧
      inExtract.grain = .stage) ∧
      hostPhase { State.reset with grain := .transaction, host := [.present s1 true] } =
        .run { starting s1 with grain := .transaction } ∧
      fetchWord { starting s1 with grain := .transaction } = some (.frame 0xFFE812345808B86) ∧
      decode (.frame 0xFFE812345808B86) = .ok (.frameCh8 0x12345 0x80 0x8B86) ∧
      (starting s1).stage.atRest = true ∧ (starting s1).start = true ∧ s1.rows = 1 ∧ FirstMatch s1 true 0 ∧
      rowBits s1 true 0 60 = some 0xFFE812345808B86 :=
  ⟨by decide +kernel, by decide +kernel, by decide +kernel, by decide +kernel, by decide, by decide +kernel,
    by decide +kernel, s1_first_match, by decide +kernel⟩

/-- Every act: at rest, and of a busy block with the same and with another candidate. -/
theorem witness_HostActsDriveOnlyPorts :
    ({ State.reset with host := [.wait] } : State).host = .wait :: [] ∧
      ({ State.reset with host := [.drive true] } : State).host = .drive true :: [] ∧
      (({ State.reset with host := [.present s1 true] } : State).host = .present s1 true :: [] ∧
        State.reset.stage.atRest = true) ∧
      inExtract.stage.atRest = false ∧ x2 = inExtract.cand ∧ s1 ≠ inExtract.cand := by
  decide +kernel

theorem witness_SequencerTransitionTable :
    inExtract.stage.atRest = false ∧ State.reset.stage.atRest = true ∧
      (next? (exec (Instr.ofStage inExtract.stage) inExtract)).isSome = true ∧
      (next? (exec (Instr.ofStage State.reset.stage) State.reset)).isSome = true ∧
      (next? (exec (Instr.ofStage .evdec) (inStage .evdec s1))).map State.stage = some .done := by
  decide +kernel

theorem witness_StartIgnoredWhileBusy :
    inExtract.stage.atRest = false ∧ (next? (exec (Instr.ofStage inExtract.stage) inExtract)).isSome = true := by
  decide +kernel

theorem witness_CandidateNeverWritten :
    (next? (exec .extract inExtract)).isSome = true ∧
      (next? (exec (.frameCh8 0x12345 0x80 0x8B86) (starting s1))).isSome = true := by
  decide +kernel

theorem witness_WorkingRegistersHaveOneWriter :
    (next? (exec (Instr.ofStage .extract) inExtract)).isSome = true ∧
      (next? (exec (Instr.ofStage .idle) (starting s1))).isSome = true := by
  decide +kernel

theorem witness_StepKeepsInvariant : inExtract.Inv ∧ (next? (step inExtract)).isSome = true :=
  ⟨inExtract_inv, by decide +kernel⟩

theorem witness_NoRunFaults : inExtract.Inv := inExtract_inv

theorem witness_RunningTransactionEnds :
    inExtract.Inv ∧ inExtract.stage.atRest = false ∧ inExtract.host = [] := ⟨inExtract_inv, by decide, by decide⟩

/-- A block in DONE after S1 was accepted. -/
def inAccepted : State :=
  { inStage .done s1 with
    buf := bytes 0x81 0x23 0x45 0x80 0x8B 0x86, accept := true
    oId := 0x12345, oChan := 0x8, oEvt := 0x80, oState := true, oHb := false }

theorem inAccepted_inv : inAccepted.Inv := by
  constructor <;> simp [inAccepted, inStage, State.reached, State.upTo, Stage.atRest]
  decide +kernel

/-- After a rejection, in a running transaction, and after an acceptance. -/
theorem witness_RejectionsIndistinguishable :
    (inRejected.Inv ∧ inRejected.stage = .done ∧ inRejected.accept = false) ∧
      (inExtract.Inv ∧ inExtract.stage ≠ .done) ∧ inAccepted.Inv ∧ inAccepted.accept = true :=
  ⟨⟨inRejected_inv, by decide, by decide⟩, ⟨inExtract_inv, by decide⟩, inAccepted_inv, by decide⟩

/-- R61, at the point the fetch must not read past: X3's frame would end one bit after its row. -/
theorem test_fetch_truncated_row_has_no_frame :
    locateFrame x3 = some none ∧ rowBits x3 true 40 60 = none ∧
      fetchWord { starting x3 with grain := .transaction } = some (.stage 0) := by
  decide +kernel

theorem witness_GhostLabelIsNotRead : (next? (step inExtract)).isSome = true := by decide +kernel

/-- X2's 100 bits at the bound 100, in EXTRACT. -/
theorem witness_OffsetsFitRegisterWidths :
    inExtract.Inv ∧ inExtract.stage.atRest = false ∧ Params.wellFormed ⟨some 100, some 2⟩ = true ∧
      Params.admits ⟨some 100, some 2⟩ inExtract.cand.rows inExtract.cand.nbits = true ∧ inExtract.found = true ∧
      inExtract.reached .extract :=
  ⟨inExtract_inv, by decide, by decide, by decide +kernel, by decide, by decide, by decide⟩

theorem witness_InstancesAreIndependent :
    (0 : Nat) ≠ 1 ∧ [State.reset, inExtract][1]? = some inExtract ∧ (next? (step inExtract)).isSome = true := by
  decide +kernel

end Sys2Proof.Tests
end

section
/-! Scope (00_scope.md): what a started block does depends on its start action alone (R12), and the offsets and counts
of a running transaction fit the registers' widths (R7, R11). -/

namespace Sys2Proof.Machine

/-! ### A step that starts a transaction -/

/-- Two states from which a step gives the same answer are in the same state after every later step. -/
theorem run_succ_congr {s s' : State} (h : step s = step s') (n : Nat) :
    Host.Core.run Sys2Proof.core (n + 1) s = Host.Core.run Sys2Proof.core (n + 1) s' := by
  cases ht : step s' with
  | next t => rw [run_succ (h.trans ht), run_succ ht]
  | fault f => rw [run_succ_fault (h.trans ht), run_succ_fault ht]
  | refused r => rw [run_succ_refused (h.trans ht), run_succ_refused ht]

theorem State.starting_iff {s : State} : s.starting = true ↔ s.stage.atRest = true ∧ s.start = true := by
  simp [State.starting]

theorem Stage.atRest_iff {st : Stage} : st.atRest = true ↔ st = .idle ∨ st = .done := by
  cases st <;> simp [Stage.atRest]

/-- The stage operation of a block that starts is the start action (R130, R136). -/
theorem runStage_starting {s : State} (h : s.starting = true) : runStage s = .next s.startAction := by
  obtain ⟨hrest, hstart⟩ := State.starting_iff.1 h
  rcases Stage.atRest_iff.1 hrest with hst | hst <;> simp [runStage, hst, execIdle, execDone, hstart]

/-- A starting step to which no frame is fetched is the start action. -/
theorem step_starting_stage {s : State} (hh : s.host = []) (hs : s.starting = true)
    (hw : fetchWord s = some (.stage s.stage.code)) : step s = .next s.startAction := by
  simp only [step, hostPhase_nil hh, hw, decode_stage, exec_ofStage, runStage_starting hs]

theorem fetchWord_frame {s : State} {f : FrameWord} (hg : s.grain = .transaction) (hs : s.starting = true)
    (hl : locateFrame s.cand = some (some f)) : fetchWord s = some (.frame f) := by
  simp [fetchWord, hg, hs, hl]

theorem fetchWord_no_frame {s : State} (hg : s.grain = .transaction) (hs : s.starting = true)
    (hl : locateFrame s.cand = some none) : fetchWord s = some (.stage s.stage.code) := by
  simp [fetchWord, hg, hs, hl]

/-- A starting step to which a frame is fetched is the transaction of that frame. -/
theorem step_starting_frame {s : State} {f : FrameWord} (hh : s.host = []) (hs : s.starting = true)
    (hw : fetchWord s = some (.frame f)) (hf : FrameWord.preamble f = Config.fpl.pre) :
    step s = frameTransaction (FrameWord.channel f) (polyFor (FrameWord.channel f)) (FrameWord.ident f)
      (FrameWord.event f) (FrameWord.checksum f) s := by
  simp only [step, hostPhase_nil hh, hw, decode_frame_of_preamble hf, exec_ofFrame, execFrame_starting hs]

/-- The start action leaves nothing of a state but its ports and the model's own two fields (R131). -/
theorem startAction_congr {s s' : State} (hc : s.cand = s'.cand) (hs : s.start = s'.start) (hh : s.host = s'.host)
    (hg : s.grain = s'.grain) : s.startAction = s'.startAction := by
  simp [State.startAction, State.clearWork, State.clearResult, hc, hs, hh, hg]

/-- A transaction begins with the start action, and all that follows depends on what that leaves. -/
theorem frameTransaction_congr {s s' : State} (h : s.startAction = s'.startAction) (c : Channel) (poly : Word16)
    (d : Ident) (e : Byte) (k : Word16) : frameTransaction c poly d e k s = frameTransaction c poly d e k s' := by
  simp only [frameTransaction, h]

/-- A starting step depends on the start action alone: in either grain, on a candidate with a frame or without. -/
theorem step_starting_congr {s s' : State} (hh : s.host = []) (hs : s.starting = true) (hs' : s'.starting = true)
    (h : s.startAction = s'.startAction) : step s = step s' := by
  have hlocate : locateFrame s'.cand = locateFrame s.cand := (congrArg (fun u => locateFrame u.cand) h).symm
  have hgrain : s'.grain = s.grain := (congrArg State.grain h).symm
  have hh' : s'.host = [] := (congrArg State.host h).symm.trans hh
  cases hg : s.grain with
  | stage =>
    rw [step_starting_stage hh hs (fetchWord_stage hg),
      step_starting_stage hh' hs' (fetchWord_stage (hgrain.trans hg)), h]
  | transaction =>
    rcases locateFrame_cases s.cand with ⟨p, f, _, hm, hbits, hl⟩ | ⟨_, hl⟩
    · have hf := preamble_of_located hm.1 hbits
      rw [step_starting_frame hh hs (fetchWord_frame hg hs hl) hf,
        step_starting_frame hh' hs' (fetchWord_frame (hgrain.trans hg) hs' (hlocate.trans hl)) hf,
        frameTransaction_congr h]
    · rw [step_starting_stage hh hs (fetchWord_no_frame hg hs hl),
        step_starting_stage hh' hs' (fetchWord_no_frame (hgrain.trans hg) hs' (hlocate.trans hl)), h]

/-- Settles O43: both blocks start with one start action, on which alone their first step depends. -/
theorem nothingSurvivesATransaction : Obligations.NothingSurvivesATransaction := by
  unfold Obligations.NothingSurvivesATransaction
  intro s s' hrest hrest' hstart hstart' hcand hh hh' hgrain n
  have hsame : s.startAction = s'.startAction :=
    startAction_congr hcand (hstart.trans hstart'.symm) (hh.trans hh'.symm) hgrain
  exact run_succ_congr (step_starting_congr hh (State.starting_iff.2 ⟨hrest, hstart⟩)
    (State.starting_iff.2 ⟨hrest', hstart'⟩) hsame) n

/-! ### Offsets and counts of a running transaction -/

/-- A count within a bound fits a register of the width that the bound asks for (R7). -/
theorem lt_two_pow_widthOf {n bound : Nat} (h : n ≤ bound) : n < 2 ^ Params.widthOf bound :=
  Nat.lt_of_lt_of_le (Nat.lt_succ_of_le h) (Nat.le_pow_clog (by decide) (bound + 1))

theorem admits_bounded_iff {maxBits maxRows rows nbits : Nat} :
    Params.admits ⟨some maxBits, some maxRows⟩ rows nbits = true ↔ nbits ≤ maxBits ∧ rows ≤ maxRows := by
  simp [Params.admits]

/-- A running transaction has its search ahead, its bound check next, or has passed both. -/
theorem State.upTo_search_or_bound_or_reached_extract {s : State} (h : s.stage.atRest = false) :
    s.upTo .search ∨ s.stage = .bound ∨ s.reached .extract := by
  unfold State.upTo State.reached
  cases hst : s.stage <;> simp [hst, Stage.atRest, Stage.code] at h ⊢

/-- While a transaction runs, either no match is recorded or the recorded preamble lies inside the row. -/
theorem State.Inv.unmatched_or_match_inside {s : State} (hi : s.Inv) (h : s.stage.atRest = false) :
    (s.found = false ∧ s.pos = 0) ∨ (s.found = true ∧ s.pos + 12 ≤ s.cand.nbits) := by
  rcases State.upTo_search_or_bound_or_reached_extract h with hup | hbound | hreached
  · exact .inl (hi.unsearched hup)
  · rcases hi.searched hbound with ⟨hfound, hm⟩ | ⟨hfound, hpos, _⟩
    · exact .inr ⟨hfound, hm.1.1⟩
    · exact .inl ⟨hfound, hpos⟩
  · obtain ⟨hfound, hm, _⟩ := hi.located hreached
    exact .inr ⟨hfound, hm.1.1⟩

/-- Settles O58: the bounds hold the counts, and the recorded match, if any, lies inside the row. -/
theorem offsetsFitRegisterWidths : Obligations.OffsetsFitRegisterWidths := by
  unfold Obligations.OffsetsFitRegisterWidths
  intro s maxBits maxRows hi hbusy _ hadmits
  obtain ⟨hbits, hrows⟩ := admits_bounded_iff.1 hadmits
  have hmatch := hi.unmatched_or_match_inside hbusy
  have hpos : s.pos ≤ s.cand.nbits := by omega
  have hfound : s.found = true → s.pos + 12 ≤ s.cand.nbits := fun hf => by
    simpa [hf] using hmatch
  have hextract : s.reached .extract → s.pos + 12 + 48 ≤ s.cand.nbits := fun hr => (hi.located hr).2.2
  exact ⟨lt_two_pow_widthOf hbits, lt_two_pow_widthOf (hpos.trans hbits), lt_two_pow_widthOf hrows, hfound, hextract⟩

end Sys2Proof.Machine
end

section
/-! The state's steps (10_state.md, 42_acceptance_policy.md R138): what one stage, one frame, the host's act and one
step can answer, said once; what no operation writes, and what none reads. -/

namespace Sys2Proof.Machine

/-! ### Rest and reset -/

/-- Settles O1: each register of the block and each output has its cleared value. -/
theorem resetClearsBlockInIdle : Obligations.ResetClearsBlockInIdle := by
  unfold Obligations.ResetClearsBlockInIdle
  refine ⟨rfl, rfl, rfl, rfl, rfl, rfl, rfl, rfl, rfl, rfl, rfl, rfl, rfl, ?_, ?_⟩
  · simp [State.observe, State.busy, State.done, Stage.atRest]
  · exact ⟨by decide, by decide, by decide, by decide⟩

/-! ### What a stage can do -/

/-- The transitions of R138's table: what the stage `st` makes of a state, with the test it has passed. -/
inductive StageStep (s : State) : Stage → State → Prop where
  | start {st : Stage} (hr : st.atRest = true) (hs : s.start = true) : StageStep s st s.startAction
  | hold {st : Stage} (hr : st.atRest = true) (hs : s.start = false) : StageStep s st (s.goto st)
  | shape (h : s.cand.rows = 1 ∧ 60 ≤ s.cand.nbits) : StageStep s .shape (s.goto .invert)
  | shortBuffer (h : ¬ (s.cand.rows = 1 ∧ 60 ≤ s.cand.nbits)) : StageStep s .shape (s.reject .shortBuffer)
  | invert : StageStep s .invert ((s.setPol true).goto .search)
  | found {p : Nat} (h : FirstMatch s.cand s.pol p) : StageStep s .search ((s.setMatch true p).goto .bound)
  | missing (h : ∀ p, ¬ MatchAt s.cand s.pol p) : StageStep s .search ((s.setMatch false 0).goto .bound)
  | bound (hf : s.found = true) (h : s.pos + 60 ≤ s.cand.nbits) : StageStep s .bound (s.goto .extract)
  | noPreamble (hf : s.found = false) : StageStep s .bound (s.reject .noPreamble)
  | truncated (hf : s.found = true) (h : s.cand.nbits < s.pos + 60) : StageStep s .bound (s.reject .truncated)
  | extract {b : Payload} (h : s.pos + 60 ≤ s.cand.nbits) (hb : HoldsRow s.cand s.pol (s.pos + 12) b) :
      StageStep s .extract ((s.setBuf b).goto .zchk)
  | zchk (h : zeroCollision s.buf = false) : StageStep s .zchk (s.goto .psel)
  | zeroCollision (h : zeroCollision s.buf = true) : StageStep s .zchk (s.reject .zeroCollision)
  | psel : StageStep s .psel ((s.setPoly (polyFor s.buf.chan)).goto .crc)
  | crc : StageStep s .crc ((s.setCkc (crc16 s.poly s.buf.covered)).goto .cmp)
  | cmp (h : s.buf.ckt = s.ckc) : StageStep s .cmp (s.goto .evdec)
  | crcMismatch (h : s.buf.ckt ≠ s.ckc) : StageStep s .cmp (s.reject .crcMismatch)
  | evdec : StageStep s .evdec (s.acceptWith (s.buf.evt.getLsbD 7) (s.buf.evt.getLsbD 2))

theorem restIn_stageStep {s : State} {st : Stage} (hr : st.atRest = true) : StageStep s st (s.restIn st) := by
  cases hs : s.start with
  | true => simpa [hs] using StageStep.start hr hs
  | false => simpa [hs] using StageStep.hold hr hs

theorem execSearch_stageStep {s : State} : ∃ t, execSearch s = .next t ∧ StageStep s .search t := by
  rcases firstMatch_or_none s.cand s.pol with ⟨p, hp⟩ | hno
  · exact ⟨_, execSearch_found hp, .found hp⟩
  · exact ⟨_, execSearch_missing hno, .missing hno⟩

/-- Every stage makes one of its transitions, but for EXTRACT where the payload is not in the row (R61). -/
theorem exec_ofStage_cases (s : State) (st : Stage) :
    (∃ t, exec (Instr.ofStage st) s = .next t ∧ StageStep s st t) ∨
      (st = .extract ∧ exec (Instr.ofStage st) s = .fault .rowReadOutOfRange) := by
  cases st with
  | idle | done => exact .inl ⟨_, rfl, restIn_stageStep rfl⟩
  | shape =>
    by_cases h : shapeOk s.cand = true
    · exact .inl ⟨_, if_pos h, .shape (shapeOk_iff.1 h)⟩
    · exact .inl ⟨_, if_neg h, .shortBuffer (mt shapeOk_iff.2 h)⟩
  | invert => exact .inl ⟨_, rfl, .invert⟩
  | search => exact .inl execSearch_stageStep
  | bound =>
    by_cases hf : s.found = true
    · by_cases h : roomOk s.cand.nbits s.pos = true
      · exact .inl ⟨_, (if_pos hf).trans (if_pos h), .bound hf (roomOk_iff.1 h)⟩
      · exact .inl ⟨_, (if_pos hf).trans (if_neg h), .truncated hf (Nat.not_le.1 (mt roomOk_iff.2 h))⟩
    · exact .inl ⟨_, if_neg hf, .noPreamble (Bool.not_eq_true _ ▸ hf)⟩
  | extract =>
    rcases execExtract_cases s with ⟨h, b, hb, he⟩ | ⟨_, he⟩
    · exact .inl ⟨_, he, .extract h hb⟩
    · exact .inr ⟨rfl, he⟩
  | zchk =>
    cases h : Machine.zeroCollision s.buf with
    | true => exact .inl ⟨_, if_pos h, .zeroCollision h⟩
    | false => exact .inl ⟨_, if_neg (by simp [h]), .zchk h⟩
  | psel => exact .inl ⟨_, rfl, .psel⟩
  | crc => exact .inl ⟨_, rfl, .crc⟩
  | cmp =>
    by_cases h : checksumOk s.buf s.ckc = true
    · exact .inl ⟨_, if_pos h, .cmp (checksumOk_iff.1 h)⟩
    · exact .inl ⟨_, if_neg h, .crcMismatch (mt checksumOk_iff.2 h)⟩
  | evdec =>
    refine .inl ⟨_, rfl, ?_⟩
    rw [eventState_eq, eventHeartbeat_eq]
    exact .evdec

/-- What a transition of the table says happens is what the stage's operation does. -/
theorem StageStep.exec_eq {s t : State} {st : Stage} (h : StageStep s st t) :
    exec (Instr.ofStage st) s = .next t := by
  cases h with
  | start hr hs => rcases Stage.atRest_iff.1 hr with rfl | rfl <;> exact congrArg _ (State.restIn_start s _ hs)
  | hold hr hs => rcases Stage.atRest_iff.1 hr with rfl | rfl <;> exact congrArg _ (State.restIn_hold s _ hs)
  | shape h => exact if_pos (shapeOk_iff.2 h)
  | shortBuffer h => exact if_neg (mt shapeOk_iff.1 h)
  | invert | psel | crc => rfl
  | found h => exact execSearch_found h
  | missing h => exact execSearch_missing h
  | bound hf h => exact (if_pos hf).trans (if_pos (roomOk_iff.2 h))
  | noPreamble hf => exact if_neg (by simp [hf])
  | truncated hf h => exact (if_pos hf).trans (if_neg (mt roomOk_iff.1 (Nat.not_le.2 h)))
  | extract h hb =>
    rcases execExtract_cases s with ⟨_, b', hb', he⟩ | ⟨hn, _⟩
    · exact holdsRow_unique hb hb' ▸ he
    · omega
  | zchk h => exact if_neg (by simp [h])
  | zeroCollision h => exact if_pos h
  | cmp h => exact if_pos (checksumOk_iff.2 h)
  | crcMismatch h => exact if_neg (mt checksumOk_iff.1 h)
  | evdec =>
    rw [← eventState_eq, ← eventHeartbeat_eq]
    rfl

theorem exec_ofStage_eq_next_iff {s t : State} {st : Stage} :
    exec (Instr.ofStage st) s = .next t ↔ StageStep s st t := by
  refine ⟨fun h => ?_, StageStep.exec_eq⟩
  rcases exec_ofStage_cases s st with ⟨u, hu, hstep⟩ | ⟨_, hf⟩
  · cases hu.symm.trans h
    exact hstep
  · cases hf.symm.trans h

theorem runStage_eq_next_iff {s t : State} : runStage s = .next t ↔ StageStep s s.stage t := by
  rw [← exec_ofStage, exec_ofStage_eq_next_iff]

/-- A stage looks at the label never and at `start` only at rest (R37, R42), and passes both on. -/
theorem StageStep.relabel {s t : State} {st : Stage} {b : Bool} (r : Option Reason) (h : StageStep s st t)
    (hrest : st.atRest = true → b = s.start) :
    ∃ r', StageStep { s with start := b, reason := r } st { t with start := b, reason := r' } ∧
      (r = s.reason → st.atRest = false → r' = t.reason) := by
  cases h with
  | start hr hs => exact ⟨none, .start hr ((hrest hr).trans hs), by simp [hr]⟩
  | hold hr hs => exact ⟨r, .hold hr ((hrest hr).trans hs), by simp [hr]⟩
  | shape h => exact ⟨r, .shape h, fun hr _ => hr⟩
  | shortBuffer h => exact ⟨_, .shortBuffer h, fun _ _ => rfl⟩
  | invert => exact ⟨r, .invert, fun hr _ => hr⟩
  | found h => exact ⟨r, .found h, fun hr _ => hr⟩
  | missing h => exact ⟨r, .missing h, fun hr _ => hr⟩
  | bound hf h => exact ⟨r, .bound hf h, fun hr _ => hr⟩
  | noPreamble hf => exact ⟨_, .noPreamble hf, fun _ _ => rfl⟩
  | truncated hf h => exact ⟨_, .truncated hf h, fun _ _ => rfl⟩
  | extract h hb => exact ⟨r, .extract h hb, fun hr _ => hr⟩
  | zchk h => exact ⟨r, .zchk h, fun hr _ => hr⟩
  | zeroCollision h => exact ⟨_, .zeroCollision h, fun _ _ => rfl⟩
  | psel => exact ⟨r, .psel, fun hr _ => hr⟩
  | crc => exact ⟨r, .crc, fun hr _ => hr⟩
  | cmp h => exact ⟨r, .cmp h, fun hr _ => hr⟩
  | crcMismatch h => exact ⟨_, .crcMismatch h, fun _ _ => rfl⟩
  | evdec => exact ⟨r, .evdec, fun hr _ => hr⟩

/-- Settles O49: a stage of a running transaction does the same whatever `start` and the label are. -/
theorem startIgnoredWhileBusy : Obligations.StartIgnoredWhileBusy := by
  unfold Obligations.StartIgnoredWhileBusy
  intro s t b hbusy h
  obtain ⟨r', h', hr'⟩ := (exec_ofStage_eq_next_iff.1 h).relabel s.reason (b := b) (by simp [hbusy])
  cases hr' rfl hbusy
  exact h'.exec_eq

/-- Settles O51: transition by transition, the one register that its update writes is the stage's own. -/
theorem workingRegistersHaveOneWriter : Obligations.WorkingRegistersHaveOneWriter := by
  unfold Obligations.WorkingRegistersHaveOneWriter
  intro st s t h
  cases exec_ofStage_eq_next_iff.1 h with
  | start hr hs => exact .inl ⟨hr, hs⟩
  | _ => right; simp

/-! ### What no operation writes -/

/-- The host's ports, its script and the grain are the same in both states. -/
def SamePorts (s t : State) : Prop :=
  t.cand = s.cand ∧ t.start = s.start ∧ t.host = s.host ∧ t.grain = s.grain

theorem SamePorts.trans {s t u : State} (h : SamePorts s t) (h' : SamePorts t u) : SamePorts s u :=
  ⟨h'.1.trans h.1, h'.2.1.trans h.2.1, h'.2.2.1.trans h.2.2.1, h'.2.2.2.trans h.2.2.2⟩

theorem StageStep.samePorts {s t : State} {st : Stage} (h : StageStep s st t) : SamePorts s t := by
  cases h <;> simp [SamePorts]

theorem exec_ofStage_samePorts (st : Stage) {s t : State} (h : exec (Instr.ofStage st) s = .next t) :
    SamePorts s t :=
  (exec_ofStage_eq_next_iff.1 h).samePorts

/-- Two parts that keep the ports keep them one after the other. -/
theorem thenStage_samePorts {s t : State} {a : Answer} {f : State → Answer}
    (ha : ∀ u, a = .next u → SamePorts s u) (hf : ∀ u v, f u = .next v → SamePorts u v)
    (h : thenStage a f = .next t) : SamePorts s t := by
  rcases thenStage_cases h with ⟨hu, _⟩ | ⟨u, hu, _, ht⟩
  · exact ha t hu
  · exact (ha u hu).trans (hf u t ht)

theorem frameTransaction_samePorts {c : Channel} {poly : Word16} {d : Ident} {e : Byte} {k : Word16} {s t : State}
    (h : frameTransaction c poly d e k s = .next t) : SamePorts s t := by
  have hload : ∀ u v, loadFrame c d e k u = .next v → SamePorts u v := by
    rintro u v ⟨⟩
    exact ⟨rfl, rfl, rfl, rfl⟩
  have hpoly : ∀ u v, loadClassPoly poly u = .next v → SamePorts u v := by
    rintro u v ⟨⟩
    exact ⟨rfl, rfl, rfl, rfl⟩
  refine SamePorts.trans (t := s.startAction) ⟨rfl, rfl, rfl, rfl⟩ ?_
  refine thenStage_samePorts (fun u => exec_ofStage_samePorts .shape) (fun u v => ?_) h
  refine thenStage_samePorts (fun u => exec_ofStage_samePorts .invert) (fun u v => ?_)
  refine thenStage_samePorts (fun u => exec_ofStage_samePorts .search) (fun u v => ?_)
  refine thenStage_samePorts (fun u => exec_ofStage_samePorts .bound) (fun u v => ?_)
  refine thenStage_samePorts (hload u) (fun u v => ?_)
  refine thenStage_samePorts (fun u => exec_ofStage_samePorts .zchk) (fun u v => ?_)
  refine thenStage_samePorts (hpoly u) (fun u v => ?_)
  refine thenStage_samePorts (fun u => exec_ofStage_samePorts .crc) (fun u v => ?_)
  exact thenStage_samePorts (fun u => exec_ofStage_samePorts .cmp) (fun u v => exec_ofStage_samePorts .evdec)

/-- Every operation is a stage or a frame of some channel (R88, R95). -/
theorem instr_eq_ofStage_or_ofFrame (i : Instr) :
    (∃ st, i = Instr.ofStage st) ∨ ∃ c d e k, i = Instr.ofFrame c d e k := by
  cases i with
  | idle => exact .inl ⟨.idle, rfl⟩
  | shape => exact .inl ⟨.shape, rfl⟩
  | invert => exact .inl ⟨.invert, rfl⟩
  | search => exact .inl ⟨.search, rfl⟩
  | bound => exact .inl ⟨.bound, rfl⟩
  | extract => exact .inl ⟨.extract, rfl⟩
  | zchk => exact .inl ⟨.zchk, rfl⟩
  | psel => exact .inl ⟨.psel, rfl⟩
  | crc => exact .inl ⟨.crc, rfl⟩
  | cmp => exact .inl ⟨.cmp, rfl⟩
  | evdec => exact .inl ⟨.evdec, rfl⟩
  | done => exact .inl ⟨.done, rfl⟩
  | frameCh0 d e k => exact .inr ⟨0x0, d, e, k, rfl⟩
  | frameCh1 d e k => exact .inr ⟨0x1, d, e, k, rfl⟩
  | frameCh2 d e k => exact .inr ⟨0x2, d, e, k, rfl⟩
  | frameCh3 d e k => exact .inr ⟨0x3, d, e, k, rfl⟩
  | frameCh4 d e k => exact .inr ⟨0x4, d, e, k, rfl⟩
  | frameCh5 d e k => exact .inr ⟨0x5, d, e, k, rfl⟩
  | frameCh6 d e k => exact .inr ⟨0x6, d, e, k, rfl⟩
  | frameCh7 d e k => exact .inr ⟨0x7, d, e, k, rfl⟩
  | frameCh8 d e k => exact .inr ⟨0x8, d, e, k, rfl⟩
  | frameCh9 d e k => exact .inr ⟨0x9, d, e, k, rfl⟩
  | frameChA d e k => exact .inr ⟨0xA, d, e, k, rfl⟩
  | frameChB d e k => exact .inr ⟨0xB, d, e, k, rfl⟩
  | frameChC d e k => exact .inr ⟨0xC, d, e, k, rfl⟩
  | frameChD d e k => exact .inr ⟨0xD, d, e, k, rfl⟩
  | frameChE d e k => exact .inr ⟨0xE, d, e, k, rfl⟩
  | frameChF d e k => exact .inr ⟨0xF, d, e, k, rfl⟩

/-- Settles O50: no transition of a stage writes a port, and a frame's transaction is made of such. -/
theorem candidateNeverWritten : Obligations.CandidateNeverWritten := by
  unfold Obligations.CandidateNeverWritten
  intro i s t h
  change SamePorts s t
  rcases instr_eq_ofStage_or_ofFrame i with ⟨st, rfl⟩ | ⟨c, d, e, k, rfl⟩
  · exact exec_ofStage_samePorts st h
  · rw [exec_ofFrame] at h
    cases hs : s.starting with
    | true => exact frameTransaction_samePorts (execFrame_starting hs ▸ h)
    | false => exact (runStage_eq_next_iff.1 (execFrame_idle hs ▸ h)).samePorts

/-! ### What a step can do -/

/-- The host's act drives its own ports and takes itself off the script; another candidate only at rest (R196). -/
theorem hostPhase_run {s t : State} (h : hostPhase s = .run t) :
    ∃ c b rest, t = { s with cand := c, start := b, host := rest } ∧ (s.stage.atRest = true ∨ c = s.cand) := by
  unfold hostPhase at h
  split at h
  case h_1 => cases h; exact ⟨_, _, _, rfl, .inr rfl⟩
  case h_2 rest _ => cases h; exact ⟨_, _, rest, rfl, .inr rfl⟩
  case h_3 b rest _ => cases h; exact ⟨_, b, rest, rfl, .inr rfl⟩
  case h_4 c b rest _ =>
    split at h
    case isTrue hc => cases h; exact ⟨c, b, rest, rfl, by simpa using hc⟩
    case isFalse => cases h
  case h_5 => cases h

theorem hostPhase_held {s t : State} (h : hostPhase s = .held t) : ∃ u : State, t = u.applyReset := by
  unfold hostPhase at h
  split at h
  case h_4 => split at h <;> cases h
  case h_5 => cases h; exact ⟨_, rfl⟩
  all_goals cases h

/-- The operation that a step in `s` runs: the stage's, or where a transaction starts the candidate's frame. -/
def Fetched (s : State) (i : Instr) : Prop :=
  i = Instr.ofStage s.stage ∨ s.starting = true ∧
    ∃ c d e k t, i = Instr.ofFrame c d e k ∧ frameTransaction c (polyFor c) d e k s = .next t ∧ TransactionEnd s t

/-- What is fetched decodes, in every state. -/
theorem fetched_operation (s : State) : ∃ w i, fetchWord s = some w ∧ decode w = .ok i ∧ Fetched s i := by
  have hstage (h : fetchWord s = some (.stage s.stage.code)) :
      ∃ w i, fetchWord s = some w ∧ decode w = .ok i ∧ Fetched s i := ⟨_, _, h, decode_stage _, .inl rfl⟩
  by_cases hs : s.starting = true
  swap
  · exact hstage (fetchWord_not_starting (by simpa using hs))
  cases hg : s.grain with
  | stage => exact hstage (fetchWord_stage hg)
  | transaction =>
    rcases locateFrame_cases s.cand with ⟨p, f, hshape, hm, hbits, hl⟩ | ⟨_, hl⟩
    swap
    · exact hstage (fetchWord_no_frame hg hs hl)
    have hroom : p + 60 ≤ s.cand.nbits := by
      by_contra hn
      cases hbits.symm.trans (rowBits_eq_none_iff.2 ⟨by decide, by omega⟩)
    obtain ⟨t, ht, hend⟩ := frameTransaction_end hshape.1 hm hroom (holdsRow_of_frame hbits)
    exact ⟨_, _, fetchWord_frame hg hs hl, decode_frame_of_preamble (preamble_of_located hm.1 hbits),
      .inr ⟨hs, _, _, _, _, t, rfl, ht, hend⟩⟩

/-- A fetched operation makes a transition of its stage, or a whole transaction. -/
theorem Fetched.exec_cases {s t : State} {i : Instr} (hf : Fetched s i) (h : exec i s = .next t) :
    StageStep s s.stage t ∨ s.starting = true ∧ TransactionEnd s t := by
  rcases hf with rfl | ⟨hs, c, d, e, k, u, rfl, hu, hend⟩
  · exact .inl (exec_ofStage_eq_next_iff.1 h)
  · rw [exec_ofFrame, execFrame_starting hs, hu] at h
    cases h
    exact .inr ⟨hs, hend⟩

theorem step_run {s t : State} {w : Code} {i : Instr} (h : hostPhase s = .run t) (hw : fetchWord t = some w)
    (hi : decode w = .ok i) : step s = exec i t := by
  simp only [step, h, hw, hi]

/-- All that a step can answer: a reset, or after the host's act one transition or a whole transaction. -/
theorem step_cases {s t : State} (h : step s = .next t) :
    (∃ u : State, t = u.applyReset) ∨
      ∃ u, hostPhase s = .run u ∧ (StageStep u u.stage t ∨ u.starting = true ∧ TransactionEnd u t) := by
  cases hp : hostPhase s with
  | held u =>
    simp only [step, hp] at h
    cases h
    exact .inl (hostPhase_held hp)
  | refuse r => simp only [step, hp] at h; cases h
  | run u =>
    obtain ⟨w, i, hw, hi, hf⟩ := fetched_operation u
    exact .inr ⟨u, rfl, hf.exec_cases (step_run hp hw hi ▸ h)⟩

/-- Settles O4: with `start == 0` a stage of rest holds, step after step. -/
theorem restIsStable : Obligations.RestIsStable := by
  unfold Obligations.RestIsStable
  intro n s hrest hstart hhost
  have hstep : step s = .next s := by
    have hw : fetchWord s = some (.stage s.stage.code) := fetchWord_not_starting (by simp [State.starting, hstart])
    rw [step_run (hostPhase_nil hhost) hw (decode_stage _), exec_ofStage_eq_next_iff]
    simpa [State.goto_self] using StageStep.hold hrest hstart
  induction n with
  | zero => rfl
  | succ n ih => rw [run_succ hstep, ih]

/-- Settles O44: the fetched word is the stage's code, or the located frame. -/
theorem stepRunsDecodedOperation : Obligations.StepRunsDecodedOperation := by
  unfold Obligations.StepRunsDecodedOperation
  intro s t w i hp hw hi
  have hgrain : t.grain = s.grain := by
    obtain ⟨c, b, rest, rfl, _⟩ := hostPhase_run hp
    rfl
  refine ⟨step_run hp hw hi, fun hhost => ?_, fun hg => ?_, fun hg hrest hstart hrows p f hm hbits => ?_⟩
  · cases (hostPhase_nil hhost).symm.trans hp
    rfl
  · cases (fetchWord_stage (hgrain.trans hg)).symm.trans hw
    cases (decode_stage t.stage).symm.trans hi
    exact ⟨rfl, rfl⟩
  · have hlong : 60 ≤ t.cand.nbits := by
      by_contra hn
      cases hbits.symm.trans (rowBits_eq_none_iff.2 ⟨by decide, by omega⟩)
    have hl := locateFrame_eq_some_iff.2 ⟨⟨hrows, hlong⟩, p, hm, hbits⟩
    cases (fetchWord_frame (hgrain.trans hg) (State.starting_iff.2 ⟨hrest, hstart⟩) hl).symm.trans hw
    rfl

/-! ### The ghost label -/

/-- The host's act does not look at the label; reset drops it. -/
theorem hostPhase_relabel (s : State) (r : Option Reason) :
    (∀ t, hostPhase s = .run t → hostPhase { s with reason := r } = .run { t with reason := r }) ∧
      ∀ t, hostPhase s = .held t → hostPhase { s with reason := r } = .held t := by
  cases hh : s.host with
  | nil => simp [hostPhase, hh]
  | cons act rest =>
    cases act with
    | wait | drive b => simp [hostPhase, hh]
    | reset =>
      simp only [hostPhase, hh]
      exact ⟨by rintro t ⟨⟩, by rintro t ⟨⟩; rfl⟩
    | present c b =>
      simp only [hostPhase, hh]
      split
      · exact ⟨by rintro t ⟨⟩; rfl, by rintro t ⟨⟩⟩
      · exact ⟨by rintro t ⟨⟩, by rintro t ⟨⟩⟩

/-- A stage passes the label on, and a transaction drops it at its start. -/
theorem Fetched.exec_relabel {s t : State} {i : Instr} (hf : Fetched s i) (h : exec i s = .next t)
    (r : Option Reason) : ∃ r', exec i { s with reason := r } = .next { t with reason := r' } := by
  rcases hf with rfl | ⟨hs, c, d, e, k, _, rfl, _, _⟩
  · have hstep := exec_ofStage_eq_next_iff.1 h
    obtain ⟨r', hr', _⟩ := hstep.relabel r (fun _ => rfl)
    exact ⟨r', by simpa only [hstep.samePorts.2.1] using hr'.exec_eq⟩
  · refine ⟨t.reason, ?_⟩
    rw [exec_ofFrame, execFrame_starting hs] at h
    rw [exec_ofFrame, execFrame_starting (s := { s with reason := r }) hs]
    exact h

/-- Settles O57: the act and the fetch do not look at the label, a stage passes it on, and a transaction drops it. -/
theorem ghostLabelIsNotRead : Obligations.GhostLabelIsNotRead := by
  unfold Obligations.GhostLabelIsNotRead
  refine fun s r => ⟨rfl, fun t h => ?_⟩
  cases hp : hostPhase s with
  | held u =>
    have hr := (hostPhase_relabel s r).2 u hp
    simp only [step, hp, hr] at h ⊢
    cases h
    exact ⟨t.reason, rfl⟩
  | refuse => simp only [step, hp] at h; cases h
  | run u =>
    obtain ⟨w, i, hw, hi, hf⟩ := fetched_operation u
    rw [step_run hp hw hi] at h
    rw [step_run ((hostPhase_relabel s r).1 u hp) hw hi]
    exact hf.exec_relabel h r

end Sys2Proof.Machine
end

section
/-! The invariant of every step (10_state.md R33, 20_memory.md R61): each transition of the sequencer keeps it, and so
do a whole transaction, the host's act and reset. -/

namespace Sys2Proof.Machine

/-- At rest no stage of a transaction has been reached. -/
theorem State.not_reached_of_atRest {s : State} {st : Stage} (h : s.stage.atRest = true) : ¬ s.reached st := by
  simp [State.reached, h]

/-- In DONE the invariant is about the result port alone. -/
theorem State.Inv.of_done {s : State} (h : s.stage = .done) (hq : s.accept = false → s.record = Record.zero)
    (hr : s.accept = true →
      s.record = ⟨s.buf.ident, s.buf.chan, s.buf.evt, s.buf.evt.getLsbD 7, s.buf.evt.getLsbD 2⟩) : s.Inv := by
  constructor <;> simp_all [State.reached, State.upTo, Stage.atRest]

theorem State.reject_inv (s : State) (r : Reason) : (s.reject r).Inv :=
  .of_done rfl (fun _ => rfl) (by simp)

theorem State.acceptWith_inv (s : State) : (s.acceptWith (s.buf.evt.getLsbD 7) (s.buf.evt.getLsbD 2)).Inv :=
  .of_done rfl (by simp) (fun _ => rfl)

theorem State.applyReset_inv (s : State) : s.applyReset.Inv := by
  constructor <;> simp [State.reached, State.upTo, Stage.atRest, State.record, Record.zero]

theorem State.startAction_inv (s : State) : s.startAction.Inv := by
  constructor <;> simp [State.reached, State.upTo, Stage.atRest, Stage.code, State.record, Record.zero]

/-- Settles O52: the state after reset is one that reset leaves. -/
theorem invariantHoldsAtReset : Obligations.InvariantHoldsAtReset := State.reset.applyReset_inv

theorem TransactionEnd.inv {s t : State} (h : TransactionEnd s t) : t.Inv := by
  cases h with
  | accepted => exact (s.summedAt _ _).acceptWith_inv
  | _ => exact State.reject_inv _ _


/-! A transition that goes on -/

/-- A stage of a running transaction goes on to the next: what it leaves as it was, what it has written and what it has
checked, stage by stage. -/
structure Advance (s t : State) : Prop where
  busy : s.stage.atRest = false
  busy_next : t.stage.atRest = false
  succ : t.stage.code.toNat = s.stage.code.toNat + 1
  cand : t.cand = s.cand
  accept : t.accept = s.accept
  record : t.record = s.record
  buf : s.stage ≠ .extract → t.buf = s.buf
  pol : s.stage ≠ .invert → t.pol = s.pol
  location : s.stage ≠ .search → t.found = s.found ∧ t.pos = s.pos
  poly : s.stage ≠ .psel → t.poly = s.poly
  ckc : s.stage ≠ .crc → t.ckc = s.ckc
  shaped : s.stage = .shape → s.cand.rows = 1 ∧ 60 ≤ s.cand.nbits
  inverted : s.stage = .invert → t.pol = true
  searched : s.stage = .search → (t.found = true ∧ FirstMatch s.cand s.pol t.pos) ∨
    (t.found = false ∧ t.pos = 0 ∧ ∀ p, ¬ MatchAt s.cand s.pol p)
  bounded : s.stage = .bound → s.found = true ∧ s.pos + 60 ≤ s.cand.nbits
  loaded : s.stage = .extract → HoldsRow s.cand s.pol (s.pos + 12) t.buf
  nonzero : s.stage = .zchk → zeroCollision s.buf = false
  selected : s.stage = .psel → t.poly = polyFor s.buf.chan
  summed : s.stage = .crc → t.ckc = crc16 s.poly s.buf.covered
  checked : s.stage = .cmp → s.buf.ckt = s.ckc

theorem StageStep.advance {s t : State} {st : Stage} (h : StageStep s st t) (hst : s.stage = st)
    (hs : s.stage.atRest = false) (ht : t.stage.atRest = false) : Advance s t := by
  cases h with
  | start hr | hold hr => simp [hst, hr] at hs
  | shortBuffer | noPreamble | truncated | zeroCollision | crcMismatch | evdec => simp [Stage.atRest] at ht
  | _ => constructor <;> simp [Stage.code, Stage.atRest, State.record, *]

/-- Once reached, a stage is not one that comes before it. -/
theorem State.reached.ne {s : State} {st st' : Stage} (h : s.reached st) (hlt : st'.code.toNat < st.code.toNat) :
    s.stage ≠ st' := by
  rintro rfl
  exact absurd h.2 (Nat.not_le.2 hlt)

theorem Stage.code_injective : Function.Injective Stage.code := fun st st' h => by
  simpa [Stage.ofCode_code] using congrArg Stage.ofCode h

namespace Advance

variable {s t : State}

/-- What `t` has reached `s` had, or `s` stood one stage before it. -/
theorem reached_or (h : Advance s t) {st st' : Stage} (hsucc : st'.code.toNat = st.code.toNat + 1)
    (hr : t.reached st') : s.reached st' ∨ s.stage = st := by
  have hsucc' := h.succ
  have hle := hr.2
  by_cases hs : st'.code.toNat ≤ s.stage.code.toNat
  · exact .inl ⟨h.busy, hs⟩
  · exact .inr (Stage.code_injective (BitVec.eq_of_toNat_eq (by omega)))

/-- Where `t` is not past a stage, `s` was before it. -/
theorem upTo_of (h : Advance s t) {st : Stage} (hu : t.upTo st) : s.upTo st ∧ s.stage ≠ st := by
  have hsucc := h.succ
  have hle := hu.2
  exact ⟨⟨h.busy, by omega⟩, by rintro rfl; omega⟩

/-- `s` stands one stage before `t`. -/
theorem stage_of (h : Advance s t) {st st' : Stage} (hsucc : st'.code.toNat = st.code.toNat + 1)
    (ht : t.stage = st') : s.stage = st := by
  have := h.succ
  subst ht
  exact Stage.code_injective (BitVec.eq_of_toNat_eq (by omega))

theorem reached_stage (h : Advance s t) {st : Stage} (hst : s.stage = st) : s.reached st := by
  subst hst
  exact ⟨h.busy, Nat.le_refl _⟩

theorem accept_eq_false (h : Advance s t) (hi : s.Inv) : t.accept = false := by
  rw [h.accept, ← Bool.not_eq_true]
  intro hacc
  simpa [hi.acceptedAtDone hacc, Stage.atRest] using h.busy

/-- Each clause of the invariant is about registers that its stages do not write any more, or has just been
established. -/
theorem inv (h : Advance s t) (hi : s.Inv) : t.Inv where
  idle ht := by simpa [ht, Stage.atRest] using h.busy_next
  shaped hr := h.cand ▸ (h.reached_or rfl hr).elim hi.shaped h.shaped
  upright hu := by
    obtain ⟨hu, hne⟩ := h.upTo_of hu
    exact (h.pol hne).trans (hi.upright hu)
  inverted hr := by
    rcases h.reached_or (st := .invert) rfl hr with hr | hst
    · exact (h.pol (hr.ne (by decide))).trans (hi.inverted hr)
    · exact h.inverted hst
  unsearched hu := by
    obtain ⟨hu, hne⟩ := h.upTo_of hu
    obtain ⟨hf, hp⟩ := h.location hne
    exact ⟨hf.trans (hi.unsearched hu).1, hp.trans (hi.unsearched hu).2⟩
  searched ht := by
    have hst : s.stage = .search := h.stage_of rfl ht
    have hsearched := h.searched hst
    rw [hi.inverted (h.reached_stage hst)] at hsearched
    rw [h.cand]
    exact hsearched
  located hr := by
    rcases h.reached_or (st := .bound) rfl hr with hr | hst
    · obtain ⟨hf, hp⟩ := h.location (hr.ne (by decide))
      rw [h.cand, hf, hp]
      exact hi.located hr
    · obtain ⟨hf, hp⟩ := h.location (by simp [hst])
      obtain ⟨hfound, hroom⟩ := h.bounded hst
      have hm : FirstMatch s.cand true s.pos := by simpa [hfound] using hi.searched hst
      rw [h.cand, hf, hp]
      exact ⟨hfound, hm, hroom⟩
  unloaded hu := by
    obtain ⟨hu, hne⟩ := h.upTo_of hu
    exact (h.buf hne).trans (hi.unloaded hu)
  loaded hr := by
    rcases h.reached_or (st := .extract) rfl hr with hr | hst
    · rw [h.cand, (h.location (hr.ne (by decide))).2, h.buf (hr.ne (by decide))]
      exact hi.loaded hr
    · have hpol : s.pol = true := hi.inverted ⟨h.busy, by simp [hst, Stage.code]⟩
      rw [h.cand, (h.location (by simp [hst])).2, ← hpol]
      exact h.loaded hst
  nonzero hr := by
    rcases h.reached_or (st := .zchk) rfl hr with hr | hst
    · rw [h.buf (hr.ne (by decide))]
      exact hi.nonzero hr
    · rw [h.buf (by simp [hst])]
      exact h.nonzero hst
  unselected hu := by
    obtain ⟨hu, hne⟩ := h.upTo_of hu
    exact (h.poly hne).trans (hi.unselected hu)
  selected hr := by
    rcases h.reached_or (st := .psel) rfl hr with hr | hst
    · rw [h.poly (hr.ne (by decide)), h.buf (hr.ne (by decide))]
      exact hi.selected hr
    · rw [h.buf (by simp [hst])]
      exact h.selected hst
  unsummed hu := by
    obtain ⟨hu, hne⟩ := h.upTo_of hu
    exact (h.ckc hne).trans (hi.unsummed hu)
  summed hr := by
    rcases h.reached_or (st := .crc) rfl hr with hr | hst
    · rw [h.ckc (hr.ne (by decide)), h.poly (hr.ne (by decide)), h.buf (hr.ne (by decide))]
      exact hi.summed hr
    · rw [h.poly (by simp [hst]), h.buf (by simp [hst])]
      exact h.summed hst
  checked ht := by
    have hst : s.stage = .cmp := h.stage_of rfl ht
    rw [h.buf (by simp [hst]), h.ckc (by simp [hst])]
    exact h.checked hst
  acceptedAtDone := by simp [h.accept_eq_false hi]
  quiet _ := h.record.trans (hi.quiet (h.accept.symm.trans (h.accept_eq_false hi)))
  recorded := by simp [h.accept_eq_false hi]

end Advance

theorem StageStep.inv {s t : State} {st : Stage} (hi : s.Inv) (hst : s.stage = st) (h : StageStep s st t) : t.Inv := by
  by_cases hbusy : s.stage.atRest = false ∧ t.stage.atRest = false
  · exact (h.advance hst hbusy.1 hbusy.2).inv hi
  · cases h with
    | start => exact s.startAction_inv
    | hold => exact State.goto_self s hst ▸ hi
    | evdec => exact s.acceptWith_inv
    | shortBuffer | noPreamble | truncated | zeroCollision | crcMismatch => exact s.reject_inv _
    | _ => exact absurd ⟨by simp [hst, Stage.atRest], rfl⟩ hbusy

/-- What the host drives at rest or leaves as it is breaks no clause: at rest none is about the candidate. -/
theorem hostPhase_run_inv {s t : State} (hi : s.Inv) (h : hostPhase s = .run t) : t.Inv := by
  obtain ⟨c, b, rest, rfl, hrest | rfl⟩ := hostPhase_run h
  · exact
      { hi with
        shaped := fun hr => absurd hr (State.not_reached_of_atRest hrest)
        searched := fun hst => by simp [Stage.atRest, show s.stage = .bound from hst] at hrest
        located := fun hr => absurd hr (State.not_reached_of_atRest hrest)
        loaded := fun hr => absurd hr (State.not_reached_of_atRest hrest) }
  · exact { hi with }

/-- Settles O53: a reset clears all, the host's act breaks no clause, and a stage or a whole transaction keeps every
one. -/
theorem stepKeepsInvariant : Obligations.StepKeepsInvariant := by
  unfold Obligations.StepKeepsInvariant
  intro s t hi h
  rcases step_cases h with ⟨u, rfl⟩ | ⟨u, hu, hstage | ⟨_, hend⟩⟩
  · exact u.applyReset_inv
  · exact hstage.inv (hostPhase_run_inv hi hu) rfl
  · exact hend.inv

end Sys2Proof.Machine
end

section
/-! The four views of the payload buffer (10_state.md R21), as numbers. -/

namespace Sys2Proof.Machine

theorem toNat_append_eq_mul_add {m n : Nat} (x : BitVec m) (y : BitVec n) :
    (x ++ y).toNat = x.toNat * 2 ^ n + y.toNat := by
  rw [BitVec.toNat_append, ← Nat.shiftLeft_add_eq_or_of_lt y.isLt, Nat.shiftLeft_eq]

theorem Payload.chan_toNat (b : Payload) : b.chan.toNat = b.b0.toNat / 16 := by
  have := b.b0.isLt
  simp only [Payload.chan, BitVec.extractLsb'_toNat, Nat.shiftRight_eq_div_pow]
  omega

theorem Payload.ident_toNat (b : Payload) :
    b.ident.toNat = (b.b0.toNat % 16) * 65536 + b.b1.toNat * 256 + b.b2.toNat := by
  simp only [Payload.ident, toNat_append_eq_mul_add, BitVec.extractLsb'_toNat, Nat.shiftRight_zero]
  omega

theorem Payload.ckt_toNat (b : Payload) : b.ckt.toNat = b.b4.toNat * 256 + b.b5.toNat :=
  toNat_append_eq_mul_add b.b4 b.b5

/-- A buffer is determined by its four views: together they show every bit. -/
theorem Payload.ext_views {a b : Payload} (hc : a.chan = b.chan) (hd : a.ident = b.ident) (he : a.evt = b.evt)
    (hk : a.ckt = b.ckt) : a = b := by
  have hc' := congrArg BitVec.toNat hc
  have hd' := congrArg BitVec.toNat hd
  have hk' := congrArg BitVec.toNat hk
  rw [Payload.chan_toNat, Payload.chan_toNat] at hc'
  rw [Payload.ident_toNat, Payload.ident_toNat] at hd'
  rw [Payload.ckt_toNat, Payload.ckt_toNat] at hk'
  have := a.b1.isLt; have := a.b2.isLt; have := a.b5.isLt
  have := b.b1.isLt; have := b.b2.isLt; have := b.b5.isLt
  have h0 : a.b0 = b.b0 := BitVec.eq_of_toNat_eq (by omega)
  rw [h0] at hd'
  have h1 : a.b1 = b.b1 := BitVec.eq_of_toNat_eq (by omega)
  have h2 : a.b2 = b.b2 := BitVec.eq_of_toNat_eq (by omega)
  have h4 : a.b4 = b.b4 := BitVec.eq_of_toNat_eq (by omega)
  have h5 : a.b5 = b.b5 := BitVec.eq_of_toNat_eq (by omega)
  exact Payload.ext_read fun k => by fin_cases k <;> assumption

/-- Settles O13: the buffer of the four fields has them as views, and no other has. -/
theorem viewsCoverBufferOnce : Obligations.ViewsCoverBufferOnce := by
  unfold Obligations.ViewsCoverBufferOnce
  refine ⟨fun b => ⟨b.chan_toNat, b.ident_toNat, rfl, b.ckt_toNat⟩,
    fun c d e k => ⟨Payload.ofFields c d e k, by simp, ?_⟩⟩
  rintro b ⟨hc, hd, he, hk⟩
  exact Payload.ext_views (by simp [hc]) (by simp [hd]) (by simp [he]) (by simp [hk])

end Sys2Proof.Machine
end

section
/-! Placed words (30_encoding.md R90): a frame placed alone in its row is the one that a step finds there. -/

namespace Sys2Proof.Machine

theorem natToBits_getElem? {w n i : Nat} (h : i < w) : (natToBits w n)[i]? = some (n.testBit (w - 1 - i)) := by
  simp [natToBits, h]

/-- Alone in its row and complemented, a frame is read as it is (R90). -/
theorem rowBits_bareCandidate (f : FrameWord) : rowBits (bareCandidate f) true 0 60 = some f := by
  refine rowBits_eq_some_iff.2 fun j hj => ?_
  rw [rowBit_eq_some_iff, Nat.zero_add, BitVec.getMsbD_eq_getLsbD]
  simp [bareCandidate, natToBits_getElem? hj, hj, BitVec.getLsbD]

/-! The fields of a frame word are the values it is made of: the appended parts below a field are skipped. -/

section
variable (c : Channel) (d : Ident) (e : Byte) (k : Word16)

theorem preamble_frameWord : FrameWord.preamble (frameWord c d e k) = Config.fpl.pre :=
  calc (Config.fpl.pre ++ c ++ d ++ e ++ k).extractLsb' 48 12
    _ = (Config.fpl.pre ++ c ++ d ++ e).extractLsb' 32 12 := BitVec.extractLsb'_append_eq_of_le (by decide)
    _ = (Config.fpl.pre ++ c ++ d).extractLsb' 24 12 := BitVec.extractLsb'_append_eq_of_le (by decide)
    _ = (Config.fpl.pre ++ c).extractLsb' 4 12 := BitVec.extractLsb'_append_eq_of_le (by decide)
    _ = Config.fpl.pre := BitVec.extractLsb'_append_eq_left

theorem channel_frameWord : FrameWord.channel (frameWord c d e k) = c :=
  calc (Config.fpl.pre ++ c ++ d ++ e ++ k).extractLsb' 44 4
    _ = (Config.fpl.pre ++ c ++ d ++ e).extractLsb' 28 4 := BitVec.extractLsb'_append_eq_of_le (by decide)
    _ = (Config.fpl.pre ++ c ++ d).extractLsb' 20 4 := BitVec.extractLsb'_append_eq_of_le (by decide)
    _ = (Config.fpl.pre ++ c).extractLsb' 0 4 := BitVec.extractLsb'_append_eq_of_le (by decide)
    _ = c := BitVec.extractLsb'_append_eq_right

theorem ident_frameWord : FrameWord.ident (frameWord c d e k) = d :=
  calc (Config.fpl.pre ++ c ++ d ++ e ++ k).extractLsb' 24 20
    _ = (Config.fpl.pre ++ c ++ d ++ e).extractLsb' 8 20 := BitVec.extractLsb'_append_eq_of_le (by decide)
    _ = (Config.fpl.pre ++ c ++ d).extractLsb' 0 20 := BitVec.extractLsb'_append_eq_of_le (by decide)
    _ = d := BitVec.extractLsb'_append_eq_right

theorem event_frameWord : FrameWord.event (frameWord c d e k) = e :=
  calc (Config.fpl.pre ++ c ++ d ++ e ++ k).extractLsb' 16 8
    _ = (Config.fpl.pre ++ c ++ d ++ e).extractLsb' 0 8 := BitVec.extractLsb'_append_eq_of_le (by decide)
    _ = e := BitVec.extractLsb'_append_eq_right

theorem checksum_frameWord : FrameWord.checksum (frameWord c d e k) = k :=
  BitVec.extractLsb'_append_eq_right

theorem decode_frameWord : decode (.frame (frameWord c d e k)) = .ok (Instr.ofFrame c d e k) := by
  rw [decode_frame_of_preamble (preamble_frameWord c d e k), channel_frameWord, ident_frameWord, event_frameWord,
    checksum_frameWord]

end

/-- A frame alone in its row is the frame that the row carries. -/
theorem locateFrame_bareCandidate {f : FrameWord} (h : FrameWord.preamble f = Config.fpl.pre) :
    locateFrame (bareCandidate f) = some (some f) := by
  have hbits := rowBits_bareCandidate f
  have hlong : 60 ≤ (bareCandidate f).nbits := by simp [bareCandidate, Candidate.nbits, natToBits]
  refine locateFrame_eq_some_iff.2 ⟨⟨rfl, hlong⟩, 0, ⟨⟨by omega, fun j hj => ?_⟩, by simp⟩, hbits⟩
  have hpre : (FrameWord.preamble f).getMsbD j = f.getMsbD j := by
    rw [FrameWord.preamble, BitVec.getMsbD_extractLsb']
    simp [hj, show 60 - (60 - j) = j by omega]
  rw [rowBits_eq_some_iff.1 hbits j (by omega), ← hpre, h]
  rfl

theorem atRest_placeFrame (s : State) (f : FrameWord) : (placeFrame s f).stage.atRest = true := by
  simp only [placeFrame]
  split
  · assumption
  · rfl

theorem withFetchWord_stage (s : State) (st : Stage) :
    s.withFetchWord 8 st.code.toNat = { s with stage := st, grain := .stage, host := [] } := by
  simp [State.withFetchWord, placeTableWord, placeStage, Stage.ofCode_code]

theorem withFetchWord_frame (s : State) (f : FrameWord) : s.withFetchWord 64 f.toNat = placeFrame s f := by
  simp [State.withFetchWord, placeTableWord]

/-- Settles O47: a placed code stands in `STAGE`, and a placed frame is the one that its row carries. -/
theorem placedWordRunsNext : Obligations.PlacedWordRunsNext := by
  unfold Obligations.PlacedWordRunsNext
  refine ⟨fun s st => ?_, fun s c d e k => ?_⟩
  · rw [withFetchWord_stage, step_at rfl rfl rfl]
  · rw [withFetchWord_frame]
    have hw : fetchWord (placeFrame s (frameWord c d e k)) = some (.frame (frameWord c d e k)) :=
      fetchWord_frame rfl (State.starting_iff.2 ⟨atRest_placeFrame .., rfl⟩)
        (locateFrame_bareCandidate (preamble_frameWord c d e k))
    simp only [step, hostPhase_nil (s := placeFrame s _) rfl, hw, decode_frameWord]

end Sys2Proof.Machine
end

section
/-! The two address spaces (20_memory.md): reads of the row, of one bit and of a field, the store into the payload
buffer, and that no fetch and no run from the invariant needs a read outside the row (R61). -/

namespace Sys2Proof.Machine

/-! ### Reads and the store -/

/-- Settles O10: the candidate's bit decides both what is read and whether anything is. -/
theorem rowBitDefinedExactlyInsideRow : Obligations.RowBitDefinedExactlyInsideRow := by
  unfold Obligations.RowBitDefinedExactlyInsideRow
  exact fun c pol i => ⟨fun h => rowBit_eq_some_iff.2 (by simp [h]), rowBit_eq_none_iff.2⟩

/-- The first bit of a word weighs most (R9). -/
theorem toNat_eq_sum_getMsbD {n : Nat} (w : BitVec n) :
    w.toNat = ∑ j ∈ Finset.range n, (w.getMsbD j).toNat * 2 ^ (n - 1 - j) := by
  induction n with
  | zero => simp [BitVec.eq_nil w]
  | succ n ih =>
    obtain ⟨b, v, rfl⟩ : ∃ (b : Bool) (v : BitVec n), w = BitVec.cons b v :=
      ⟨w.msb, w.setWidth n, (BitVec.cons_msb_setWidth w).symm⟩
    rw [BitVec.toNat_cons', Nat.shiftLeft_eq, ih v, Finset.sum_range_succ', Nat.add_comm]
    refine congrArg₂ (· + ·) (Finset.sum_congr rfl fun j _ => ?_) (by simp)
    rw [getMsbD_cons_succ, show n + 1 - 1 - (j + 1) = n - 1 - j by omega]

/-- Settles O11: a field's bits are the row's, each read with the polarity. -/
theorem rowBitsIsWeightedSum : Obligations.RowBitsIsWeightedSum := by
  unfold Obligations.RowBitsIsWeightedSum
  refine fun c pol a n hn => ⟨fun h => ?_, fun h => rowBits_eq_none_iff.2 ⟨by omega, h⟩⟩
  obtain ⟨w, hw⟩ := rowBits_isSome (pol := pol) h
  refine ⟨w, hw, (toNat_eq_sum_getMsbD w).trans (Finset.sum_congr rfl fun j hj => ?_)⟩
  have hraw := rowBit_eq_some_iff.1 (rowBits_eq_some_iff.1 hw j (Finset.mem_range.1 hj))
  simp [List.getD_eq_getElem?_getD, hraw]

/-- Settles O12: for each pair of a byte written and a byte read. -/
theorem payloadWriteChangesOneByte : Obligations.PayloadWriteChangesOneByte := by
  unfold Obligations.PayloadWriteChangesOneByte
  intro b k j v
  fin_cases k <;> fin_cases j <;> rfl

/-! ### No read outside the row -/

/-- Settles O21: EXTRACT goes on only with its payload inside the row. -/
theorem extractFaultsOutsideRow : Obligations.ExtractFaultsOutsideRow := by
  unfold Obligations.ExtractFaultsOutsideRow
  intro s hout
  rcases execExtract_cases s with ⟨hin, _⟩ | ⟨_, hfault⟩
  · omega
  · exact hfault

/-- Settles O46: the stage's own code is a word, and a frame is fetched only where the preamble stands. -/
theorem everyFetchDecodes : Obligations.EveryFetchDecodes := by
  unfold Obligations.EveryFetchDecodes
  intro s
  obtain ⟨w, i, hw, hi, _⟩ := fetched_operation s
  exact ⟨w, i, hw, hi⟩

/-- Under the invariant the fetched operation answers a next state: where EXTRACT is the stage, BOUND has passed. -/
theorem Fetched.exec_next {s : State} {i : Instr} (hf : Fetched s i) (hi : s.Inv) : ∃ t, exec i s = .next t := by
  rcases hf with rfl | ⟨hs, c, d, e, k, t, rfl, ht, _⟩
  · rcases exec_ofStage_cases s s.stage with ⟨t, ht, _⟩ | ⟨hst, _⟩
    · exact ⟨t, ht⟩
    · obtain ⟨_, _, hroom⟩ := hi.located (by simp [State.reached, hst, Stage.atRest])
      rw [hst]
      rcases execExtract_cases s with ⟨_, b, _, hnext⟩ | ⟨hout, _⟩
      · exact ⟨_, hnext⟩
      · omega
  · exact ⟨t, by rw [exec_ofFrame, execFrame_starting hs, ht]⟩

theorem State.Inv.step_ne_fault {s : State} (hi : s.Inv) (f : Fault) : step s ≠ .fault f := by
  cases hp : hostPhase s with
  | held t => simp [step, hp]
  | refuse r => simp [step, hp]
  | run t =>
    obtain ⟨w, i, hw, hdec, hf⟩ := fetched_operation t
    obtain ⟨u, hu⟩ := hf.exec_next (hostPhase_run_inv hi hp)
    simp [step_run hp hw hdec, hu]

/-- Settles O54: no step from the invariant faults, and every step keeps the invariant. -/
theorem noRunFaults : Obligations.NoRunFaults := by
  unfold Obligations.NoRunFaults
  intro s hi n
  induction n generalizing s with
  | zero => simp [run_zero]
  | succ n ih =>
    intro f
    cases hs : step s with
    | next t =>
      rw [run_succ hs]
      exact ih t (stepKeepsInvariant s t hi hs) f
    | fault g => exact absurd hs (hi.step_ne_fault g)
    | refused r => simp [run_succ_refused hs]

end Sys2Proof.Machine
end

section
/-! The encodings (30_encoding.md): a word as a string of bits, the round trip of decoder and encoder in both
directions, the frame's layout, and what of a frame decides an outcome. -/

namespace Sys2Proof.Machine

/-! ### From an operation to its bits and back -/

theorem encode_ofStage (st : Stage) : encode (Instr.ofStage st) = .stage st.code := by
  cases st <;> rfl

theorem encode_ofFrame (c : Channel) (d : Ident) (e : Byte) (k : Word16) :
    encode (Instr.ofFrame c d e k) = .frame (frameWord c d e k) := by
  obtain ⟨⟨n, hn⟩⟩ := c
  change n < 16 at hn
  interval_cases n <;> rfl

theorem decode_encode (i : Instr) : decode (encode i) = .ok i := by
  rcases instr_eq_ofStage_or_ofFrame i with ⟨st, rfl⟩ | ⟨c, d, e, k, rfl⟩
  · rw [encode_ofStage, decode_stage]
  · rw [encode_ofFrame, decode_frameWord]

theorem natToBits_length (w n : Nat) : (natToBits w n).length = w := by simp [natToBits]

/-- A word read back from its bits in row order is the word (R9). -/
theorem ofNat_bitsToNat_natToBits {w : Nat} (v : BitVec w) :
    BitVec.ofNat w (bitsToNat (natToBits w v.toNat)) = v := by
  apply BitVec.eq_of_getMsbD_eq
  intro i hi
  have hlen : i < (natToBits w v.toNat).length := by rwa [natToBits_length]
  have hbit := bitsToNat_testBit _ i hlen
  rw [(List.getElem_eq_iff hlen).2 (natToBits_getElem? hi)] at hbit
  simpa [BitVec.getMsbD, BitVec.getLsbD, natToBits_length, hi, show w - 1 - i < w by omega] using hbit

/-- The length of a word's bits tells its format (R102). -/
theorem decodeBits_bits (w : Code) : decodeBits w.bits = decode w := by
  cases w <;> simp [decodeBits, Code.bits, natToBits_length, ofNat_bitsToNat_natToBits]

/-- Settles O7: a word's bits are the word, and an operation's word decodes to it. -/
theorem decodeBitsOfEncodedOperation : Obligations.DecodeBitsOfEncodedOperation := by
  unfold Obligations.DecodeBitsOfEncodedOperation
  intro i _
  rw [encodeBits, decodeBits_bits]
  exact ⟨decode_encode i, decode_encode i⟩

/-! ### From a word to its operation and back -/

theorem Stage.code_of_ofCode {c : StageCode} {st : Stage} (h : Stage.ofCode c = some st) : st.code = c := by
  revert c st
  decide

/-- A word that starts with the preamble is made of its own fields: adjacent fields join to one (R80). -/
theorem frameWord_fields {f : FrameWord} (h : FrameWord.preamble f = Config.fpl.pre) :
    frameWord (FrameWord.channel f) (FrameWord.ident f) (FrameWord.event f) (FrameWord.checksum f) = f := by
  have join (start len₁ len₂ : Nat) : f.extractLsb' (start + len₁) len₂ ++ f.extractLsb' start len₁ =
      f.extractLsb' start (len₂ + len₁) := BitVec.extractLsb'_append_extractLsb'_eq_extractLsb' rfl
  rw [frameWord, ← h]
  calc f.extractLsb' 48 12 ++ f.extractLsb' 44 4 ++ f.extractLsb' 24 20 ++ f.extractLsb' 16 8 ++ f.extractLsb' 0 16
    _ = f.extractLsb' 44 16 ++ f.extractLsb' 24 20 ++ f.extractLsb' 16 8 ++ f.extractLsb' 0 16 := by rw [join 44 4 12]
    _ = f.extractLsb' 24 36 ++ f.extractLsb' 16 8 ++ f.extractLsb' 0 16 := by rw [join 24 20 16]
    _ = f.extractLsb' 16 44 ++ f.extractLsb' 0 16 := by rw [join 16 8 36]
    _ = f.extractLsb' 0 60 := join 0 16 44
    _ = f := BitVec.extractLsb'_eq_self

/-- What decodes is a stage's code or a word with the preamble. -/
theorem encode_of_decode {w : Code} {i : Instr} (h : decode w = .ok i) : encode i = w := by
  cases w with
  | stage c =>
    cases hc : Stage.ofCode c with
    | none => simp [decode, hc] at h
    | some st =>
      simp only [decode, hc, Except.ok.injEq] at h
      rw [← h, encode_ofStage, Stage.code_of_ofCode hc]
  | frame f =>
    by_cases hf : FrameWord.preamble f = Config.fpl.pre
    · rw [decode_frame_of_preamble hf] at h
      cases h
      rw [encode_ofFrame, frameWord_fields hf]
    · simp [decode, hf] at h

theorem decode_frame_isOk_iff {f : FrameWord} :
    (∃ i, decode (.frame f) = .ok i) ↔ FrameWord.preamble f = Config.fpl.pre := by
  refine ⟨fun ⟨i, hi⟩ => ?_, fun h => ⟨_, decode_frame_of_preamble h⟩⟩
  by_contra hf
  simp [decode, hf] at hi

theorem preamble_getMsbD (f : FrameWord) {n : Nat} (hn : n < 12) :
    (FrameWord.preamble f).getMsbD n = f.getMsbD n := by
  rw [FrameWord.preamble, BitVec.getMsbD_extractLsb']
  simp [hn, show 60 - (60 - n) = n by omega]

/-- The preamble is eleven 1s and a 0 (R6). -/
theorem pre_getMsbD {n : Nat} (hn : n < 12) : Config.fpl.pre.getMsbD n = decide (n < 11) := by
  interval_cases n <;> rfl

theorem preamble_eq_pre_iff {f : FrameWord} :
    FrameWord.preamble f = Config.fpl.pre ↔ ∀ n, n < 12 → f.getMsbD n = decide (n < 11) := by
  constructor
  · intro h n hn
    rw [← preamble_getMsbD f hn, h, pre_getMsbD hn]
  · intro h
    apply BitVec.eq_of_getMsbD_eq
    intro n hn
    rw [preamble_getMsbD f hn, h n hn, pre_getMsbD hn]

/-- Settles O8: what decodes is its operation's encoding, and a frame needs the preamble's bits alone. -/
theorem encodingIsUnique : Obligations.EncodingIsUnique := by
  unfold Obligations.EncodingIsUnique
  exact ⟨fun w i => encode_of_decode, fun f => decode_frame_isOk_iff.trans preamble_eq_pre_iff⟩

/-! ### The layout of a frame -/

/-- The match value of a channel's class (R89). -/
theorem pre_append_channel (c : Channel) :
    0xFFE#12 ++ c ++ 0#44 = (0xFFE000000000000#60 ||| (c.setWidth 60 <<< 44)) := by
  revert c
  decide

/-- Settles O9: each bit of the word is the bit of the field it falls in. -/
theorem frameWordLayout : Obligations.FrameWordLayout := by
  unfold Obligations.FrameWordLayout
  intro c d e k
  have hbit := Laws.TableRow.frameWord_getMsbD c d e k
  refine ⟨frameWord c d e k, encode_ofFrame c d e k, fun n hn => ?_, ?_, fun n hn => ?_, fun n hn => ?_,
    fun n hn => ?_, fun n hn => ?_, (Laws.TableRow.frameWord_masked c d e k).trans (pre_append_channel c)⟩
  · rw [hbit, if_pos (by omega), pre_getMsbD (by omega), decide_eq_true hn]
  · rw [hbit, if_pos (by omega), pre_getMsbD (by omega)]
    rfl
  · rw [hbit, if_neg (by omega), if_pos (by omega), Nat.add_sub_cancel_left]
  · rw [hbit, if_neg (by omega), if_neg (by omega), if_pos (by omega), Nat.add_sub_cancel_left]
  · rw [hbit, if_neg (by omega), if_neg (by omega), if_neg (by omega), if_pos (by omega), Nat.add_sub_cancel_left]
  · rw [hbit, if_neg (by omega), if_neg (by omega), if_neg (by omega), if_neg (by omega), Nat.add_sub_cancel_left]

/-! ### The event byte -/

/-- Under a polynomial of odd weight the checksum's parity is the parity of all the bits it covers. -/
theorem parity_crc16 {p : Word16} (hp : parity p 16 = true) (b0 b1 b2 b3 : Byte) :
    parity (crc16 p [b0, b1, b2, b3]) 16 = (parity b0 8 ^^ parity b1 8 ^^ parity b2 8 ^^ parity b3 8) := by
  simp [crc16_four, parity_crcByte hp, show parity 0#16 16 = false by decide]

theorem parity_oneBit (n : Fin 8) : parity (1#8 <<< n.val) 8 = true := by
  revert n
  decide

/-- One event bit flipped changes the parity of what the checksum covers, and so the checksum. -/
theorem crc16_flip_event_ne {p : Word16} (hp : parity p 16 = true) (b0 b1 b2 b3 : Byte) (n : Fin 8) :
    crc16 p [b0, b1, b2, b3 ^^^ (1#8 <<< n.val)] ≠ crc16 p [b0, b1, b2, b3] := by
  intro h
  have hpar := congrArg (fun v => parity v 16) h
  simp [parity_crc16 hp, parity_xor, parity_oneBit] at hpar

/-- Both flags read the event byte under the masks of bits 7 and 2 alone (R160). -/
theorem event_flags_congr {e e' : Byte} (h : e &&& 0x84#8 = e' &&& 0x84#8) :
    eventState e = eventState e' ∧ eventHeartbeat e = eventHeartbeat e' := by
  have h7 := congrArg (fun v => v.getLsbD 7) h
  have h2 := congrArg (fun v => v.getLsbD 2) h
  rw [eventState_eq, eventState_eq, eventHeartbeat_eq, eventHeartbeat_eq]
  exact ⟨by simpa using h7, by simpa using h2⟩

/-- Settles O27: EVDEC copies the byte, its flags are two bits of it, and the checksum has the parity of its bits. -/
theorem reservedEventBitsEchoed : Obligations.ReservedEventBitsEchoed := by
  unfold Obligations.ReservedEventBitsEchoed
  refine ⟨fun s => ⟨_, rfl, rfl, rfl⟩, fun s s' t t' hflags ht ht' => ?_, fun b0 b1 b2 b3 n p _ _ hp => ?_⟩
  · cases ht
    cases ht'
    exact event_flags_congr hflags
  · refine crc16_flip_event_ne ?_ b0 b1 b2 b3 n
    rcases hp with rfl | rfl <;> decide

/-! ### The first frame decides -/

/-- Fields that agree bit by bit are one value, wherever they stand. -/
theorem rowBits_congr {c c' : Candidate} {pol pol' : Bool} {a a' n : Nat} {w : BitVec n}
    (h : ∀ j, j < n → rowBit c pol (a + j) = rowBit c' pol' (a' + j)) (hw : rowBits c pol a n = some w) :
    rowBits c' pol' a' n = some w :=
  rowBits_eq_some_iff.2 fun j hj => (h j hj).symm.trans (rowBits_eq_some_iff.1 hw j hj)

/-- Settles O40: both rows hold one frame, so one buffer holds both payloads, and DECODE is a function of it. -/
theorem outcomeDependsOnlyOnFirstFrame : Obligations.OutcomeDependsOnlyOnFirstFrame := by
  unfold Obligations.OutcomeDependsOnlyOnFirstFrame
  intro c c' p p' hrows hrows' hm hm' hroom hroom' hsame
  obtain ⟨f, hf⟩ := rowBits_isSome (pol := true) hroom
  have hf' := rowBits_congr hsame hf
  rw [decodeCandidate_located hrows hm hroom (holdsRow_of_frame hf),
    decodeCandidate_located hrows' hm' hroom' (holdsRow_of_frame hf')]

/-! ### The codes and frames written out -/

/-- Settles O5: the twelve codes are the stages' own, and the four above them name no stage. -/
theorem stageCodesDecode : Obligations.StageCodesDecode := by
  unfold Obligations.StageCodesDecode
  exact ⟨decode_stage .idle, decode_stage .shape, decode_stage .invert, decode_stage .search, decode_stage .bound,
    decode_stage .extract, decode_stage .zchk, decode_stage .psel, decode_stage .crc, decode_stage .cmp,
    decode_stage .evdec, decode_stage .done, rfl, rfl, rfl, rfl⟩

/-- Settles O6: each of the five words is the frame word of its channel and fields. -/
theorem frameWordsDecode : Obligations.FrameWordsDecode := by
  unfold Obligations.FrameWordsDecode
  exact ⟨decode_frameWord 0x8 0x12345 0x80 0x8B86, decode_frameWord 0x2 0x12345 0x80 0x1E10,
    decode_frameWord 0xA 0x12345 0x80 0x5E80, decode_frameWord 0xF 0xFFFFF 0xFF 0x8029,
    decode_frameWord 0x0 0x00000 0x01 0x8005, rfl⟩

end Sys2Proof.Machine
end

section
/-! The Frame Locator (40_frame_locator.md): INVERT and SEARCH as stages, and where the first match ends (R113). -/

namespace Sys2Proof.Machine

/-! ### SEARCH -/

/-- Settles O17: the preamble occurs first somewhere or nowhere, and SEARCH records which. -/
theorem searchRecordsFirstOccurrence : Obligations.SearchRecordsFirstOccurrence := by
  unfold Obligations.SearchRecordsFirstOccurrence
  refine ⟨encode_ofStage .search, fun s => ?_⟩
  rcases firstMatch_or_none s.cand s.pol with ⟨p, hp⟩ | hno
  · exact .inl ⟨p, hp, execSearch_found hp⟩
  · exact .inr ⟨hno, execSearch_missing hno⟩

/-! ### The end of the first match -/

section
variable {c : Candidate} {pol : Bool} {p : Nat}

/-- An occurrence is a 0 that eleven 1s precede: a bit that is read lies in the row, so no bound is asked. -/
theorem matchAt_iff_zero_after_ones :
    MatchAt c pol p ↔
      rowBit c pol (p + 11) = some false ∧ ∀ j, j < 11 → rowBit c pol (p + j) = some true := by
  rw [matchAt_iff_rowBits, rowBits_eq_some_iff]
  constructor
  · intro h
    refine ⟨by simpa [pre_getMsbD] using h 11 (by omega), fun j hj => ?_⟩
    rw [h j (by omega), pre_getMsbD (by omega), decide_eq_true hj]
  · rintro ⟨hzero, hones⟩ j hj
    rw [pre_getMsbD hj]
    rcases Nat.lt_or_eq_of_le (Nat.le_of_lt_succ hj) with h | rfl
    · rw [hones j h, decide_eq_true h]
    · exact hzero

/-- An earlier occurrence `q` is an earlier 0 at `q + 11`, so none occurs earlier exactly when each earlier 0
lacks a 1 among the eleven bits before it. -/
theorem no_earlier_match_iff :
    (∀ q, q < p → ¬ MatchAt c pol q) ↔
      ∀ z, z < p + 11 → rowBit c pol z = some false → 11 ≤ z →
        ∃ j, j < 11 ∧ rowBit c pol (z - 11 + j) ≠ some true := by
  constructor
  · intro hno z hz hzero h11
    by_contra! hones
    refine hno (z - 11) (by omega) (matchAt_iff_zero_after_ones.2 ⟨?_, hones⟩)
    rwa [Nat.sub_add_cancel h11]
  · intro hlack q hq hm
    obtain ⟨hzero, hones⟩ := matchAt_iff_zero_after_ones.1 hm
    obtain ⟨j, hj, hne⟩ := hlack (q + 11) (by omega) hzero (by omega)
    rw [Nat.add_sub_cancel] at hne
    exact hne (hones j hj)

end

/-- Settles O18: an occurrence is read at its last bit, the 0, and so are the earlier ones. -/
theorem firstMatchEndsAtFirstZeroAfterElevenOnes : Obligations.FirstMatchEndsAtFirstZeroAfterElevenOnes := by
  unfold Obligations.FirstMatchEndsAtFirstZeroAfterElevenOnes
  exact fun c pol p => and_congr matchAt_iff_zero_after_ones no_earlier_match_iff

/-! ### INVERT -/

/-- Read with `POL = 1`, a bit of the row is the complement of the bit presented (R110, D6). -/
theorem rowBit_inverted {c : Candidate} {i : Nat} (h : i < c.raw.length) :
    rowBit c true i = some (!c.raw[i]) :=
  rowBit_eq_some_iff.2 (by simp [h])

/-- Settles O16: INVERT writes `POL` and `STAGE` and leaves the candidate, whose bits are then read inverted. -/
theorem invertComplementsWholeRow : Obligations.InvertComplementsWholeRow := by
  unfold Obligations.InvertComplementsWholeRow
  refine ⟨encode_ofStage .invert, fun s => ⟨rfl, fun t ht i hi => ?_⟩⟩
  cases ht
  exact rowBit_inverted hi

end Sys2Proof.Machine
end

section
/-! The Field Extractor (41_field_extractor.md): BOUND and EXTRACT as stages, and the views of the extracted buffer as
fields of the row (R124). -/

namespace Sys2Proof.Machine

/-! ### EXTRACT -/

/-- Settles O20: with the payload inside the row EXTRACT goes on, and the buffer it writes holds each payload bit. -/
theorem extractCopiesPayloadMsbFirst : Obligations.ExtractCopiesPayloadMsbFirst := by
  unfold Obligations.ExtractCopiesPayloadMsbFirst
  refine ⟨encode_ofStage .extract, fun s hin => ?_⟩
  rcases execExtract_cases s with ⟨_, b, hb, hnext⟩ | ⟨hout, _⟩
  · exact ⟨b, hnext, fun k hk => holdsRow_bit hb hk⟩
  · omega

/-! ### The views as row fields -/

/-- A part of a field is the field that starts as many bits later as the part leaves out above it. -/
theorem rowBits_extractLsb' {c : Candidate} {pol : Bool} {a n : Nat} {w : BitVec n} (start len : Nat)
    (h : rowBits c pol a n = some w) (hle : start + len ≤ n) :
    rowBits c pol (a + (n - (start + len))) len = some (w.extractLsb' start len) := by
  rw [rowBits_eq_some_iff] at h ⊢
  intro j hj
  rw [Nat.add_assoc, h _ (by omega), BitVec.getMsbD_extractLsb']
  simp [hj, show start + len - j ≤ n by omega, show n - (start + len - j) = n - (start + len) + j by omega]

section
variable {c : Candidate} {pol : Bool} {a : Nat} {b : Payload}

theorem HoldsRow.rowBits_chan (hb : HoldsRow c pol a b) : rowBits c pol a 4 = some b.chan :=
  rowBits_extractLsb' 4 4 (hb 0) (by decide)

theorem HoldsRow.rowBits_ident (hb : HoldsRow c pol a b) : rowBits c pol (a + 4) 20 = some b.ident :=
  have hlow : rowBits c pol (a + 4) 4 = some (b.b0.extractLsb' 0 4) := rowBits_extractLsb' 0 4 (hb 0) (by decide)
  rowBits_append (rowBits_append hlow (hb 1)) (hb 2)

theorem HoldsRow.rowBits_evt (hb : HoldsRow c pol a b) : rowBits c pol (a + 24) 8 = some b.evt := hb 3

theorem HoldsRow.rowBits_ckt (hb : HoldsRow c pol a b) : rowBits c pol (a + 32) 16 = some b.ckt :=
  rowBits_append (hb 4) (hb 5)

end

/-- Settles O14: EXTRACT leaves the payload in the buffer, and each view is a run of payload bits. -/
theorem viewsAreRowFieldsAfterExtract : Obligations.ViewsAreRowFieldsAfterExtract := by
  unfold Obligations.ViewsAreRowFieldsAfterExtract
  intro s t h
  rcases execExtract_cases s with ⟨_, b, hb, hnext⟩ | ⟨_, hfault⟩
  · cases hnext.symm.trans h
    exact ⟨hb.rowBits_chan, hb.rowBits_ident, hb.rowBits_evt, hb.rowBits_ckt⟩
  · cases hfault.symm.trans h

/-! ### BOUND -/

/-- Settles O19: the three conditions are the tests of BOUND's three transitions. -/
theorem boundRejectsMissingOrTruncated : Obligations.BoundRejectsMissingOrTruncated := by
  unfold Obligations.BoundRejectsMissingOrTruncated
  refine ⟨encode_ofStage .bound, fun s => ⟨fun hf => ?_, fun hf hshort => ?_, fun hf hroom => ?_⟩⟩
  · exact (StageStep.noPreamble hf).exec_eq
  · exact (StageStep.truncated hf (by omega)).exec_eq
  · exact (StageStep.bound hf (by omega)).exec_eq

end Sys2Proof.Machine
end

section
/-! The Acceptance Policy (42_acceptance_policy.md), the stages: IDLE and DONE, SHAPE, ZCHK, and the sequencer's table
(R138). -/

namespace Sys2Proof.Machine

/-- Settles O3: the two transitions of a stage of rest, one for each level of `start`. -/
theorem restStagesHoldOrStart : Obligations.RestStagesHoldOrStart := by
  unfold Obligations.RestStagesHoldOrStart
  refine ⟨encode_ofStage .idle, encode_ofStage .done, fun s => ⟨fun hs => ?_, fun hs => ?_⟩⟩
  · exact ⟨(StageStep.hold (st := .idle) rfl hs).exec_eq, (StageStep.hold (st := .done) rfl hs).exec_eq⟩
  · have hidle : exec .idle s = .next s.startAction := (StageStep.start (st := .idle) rfl hs).exec_eq
    have hdone : exec .done s = .next s.startAction := (StageStep.start (st := .done) rfl hs).exec_eq
    exact ⟨hidle, hdone.trans hidle.symm⟩

/-- Settles O15: the two conditions are the tests of SHAPE's two transitions. -/
theorem shapeRejectsUnlessOneLongRow : Obligations.ShapeRejectsUnlessOneLongRow := by
  unfold Obligations.ShapeRejectsUnlessOneLongRow
  refine ⟨encode_ofStage .shape, fun s => ⟨fun hshape => ?_, fun hbad => ?_⟩⟩
  · exact (StageStep.shape hshape).exec_eq
  · exact (StageStep.shortBuffer (by omega)).exec_eq

theorem toNat_and_lowNibble (v : Byte) : (v &&& 0x0F#8).toNat = v.toNat % 16 := by
  rw [BitVec.toNat_and]
  exact Nat.and_two_pow_sub_one_eq_mod v.toNat 4

/-- Identity and transmitted checksum are zero exactly when the bytes that they are made of are (R21, R134). -/
theorem zeroCollision_iff_bytes {b : Payload} :
    zeroCollision b = true ↔ b.b0 &&& 0x0F#8 = 0#8 ∧ b.b1 = 0#8 ∧ b.b2 = 0#8 ∧ b.b4 = 0#8 ∧ b.b5 = 0#8 := by
  rw [zeroCollision_iff]
  simp only [← BitVec.toNat_inj, Payload.ident_toNat, Payload.ckt_toNat, toNat_and_lowNibble, BitVec.toNat_ofNat,
    Nat.zero_mod]
  omega

/-- Settles O22: byte by byte, the two conditions are the tests of ZCHK's two transitions. -/
theorem zchkRejectsExactlyZeroIdentityAndChecksum : Obligations.ZchkRejectsExactlyZeroIdentityAndChecksum := by
  unfold Obligations.ZchkRejectsExactlyZeroIdentityAndChecksum
  refine ⟨encode_ofStage .zchk, fun s => ⟨fun hzero => ?_, fun hnonzero => ?_⟩, by decide +kernel, by decide +kernel⟩
  · exact (StageStep.zeroCollision (zeroCollision_iff_bytes.2 hzero)).exec_eq
  · exact (StageStep.zchk (Bool.eq_false_iff.2 (mt zeroCollision_iff_bytes.1 hnonzero))).exec_eq

/-- Settles O48: each transition that a stage can make is a row of the table, and each end is a rejection or an
acceptance. -/
theorem sequencerTransitionTable : Obligations.SequencerTransitionTable := by
  unfold Obligations.SequencerTransitionTable
  intro s t h
  have hstep := exec_ofStage_eq_next_iff.1 h
  generalize s.stage = st at hstep ⊢
  cases hstep with
  | start hr hs => rcases Stage.atRest_iff.1 hr with rfl | rfl <;> simp [hs, Stage.atRest]
  | hold hr hs => rcases Stage.atRest_iff.1 hr with rfl | rfl <;> simp [hs, Stage.atRest]
  | _ => simp [Stage.atRest, State.record, Record.zero]

end Sys2Proof.Machine
end

section
/-! The Acceptance Policy (42_acceptance_policy.md), whole transactions: run by stages they compute DECODE (R140, R141),
and a frame's operation, started, ends as its candidate's transaction does (D5). -/

namespace Sys2Proof.Machine

/-! ### The run by stages -/

theorem TransactionEnd.stage_eq {s t : State} (h : TransactionEnd s t) : t.stage = .done := by
  cases h <;> simp

theorem TransactionEnd.cand_eq {s t : State} (h : TransactionEnd s t) : t.cand = s.cand := by
  cases h <;> simp [State.locatedAt, State.summedAt]

/-- The end of a transaction shows at the result port what DECODE says of the candidate (R140, R141). -/
theorem TransactionEnd.port_eq {s t : State} (h : TransactionEnd s t) :
    (t.accept, t.record) = (decodeCandidate s.cand).port := by
  cases h with
  | shortBuffer h =>
    rw [decodeCandidate_unshaped h]
    rfl
  | noPreamble h hm =>
    rw [decodeCandidate_unmatched hm]
    rfl
  | truncated h p hm hr =>
    rw [decodeCandidate_truncated hm hr]
    rfl
  | zeroCollision h p hm hr b hb hz =>
    rw [decodeCandidate_located h.1 hm hr hb, if_pos hz]
    rfl
  | crcMismatch h p hm hr b hb hz hk =>
    rw [decodeCandidate_located h.1 hm hr hb, if_neg hz, if_pos hk]
    rfl
  | accepted h p hm hr b hb hz hk =>
    rw [decodeCandidate_located h.1 hm hr hb, if_neg hz, if_neg (not_not.2 hk)]
    rfl

/-- Started at rest, the stages reach an end of the transaction after at most ten steps more, busy until then. -/
theorem transaction_run {s : State} (hr : s.stage.atRest = true) (hs : s.start = true) (hh : s.host = [])
    (hg : s.grain = .stage) :
    ∃ n t, n ≤ 10 ∧ Host.Core.run Sys2Proof.core (n + 1) s = .next t ∧ TransactionEnd s t ∧
      ∀ m u, m < n → Host.Core.run Sys2Proof.core (m + 1) s = .next u → u.busy = true := by
  obtain ⟨l, t, hchain, hlen, hbusy, hend⟩ := transaction_chain hr hs hh hg
  refine ⟨l.length, t, hlen, ?_, hend, fun m u hm hu => ?_⟩
  · rw [run_chain hchain (by simp)]
    simp
  · rw [run_chain hchain (by simp; omega)] at hu
    cases hu
    have hnext : (s :: (l ++ [t]))[m + 1]'(by simp; omega) = l[m] := by simp [hm]
    rw [hnext, State.busy, hbusy _ (List.getElem_mem hm), Bool.not_false]

/-- Settles O36: the run by stages ends the transaction, and at its end the port shows DECODE's verdict. -/
theorem stagesComputeDecode : Obligations.StagesComputeDecode := by
  unfold Obligations.StagesComputeDecode
  intro s hr hs hh hg
  obtain ⟨n, t, hn, hrun, hend, hbusy⟩ := transaction_run hr hs hh hg
  exact ⟨n, t, hn, hrun, hend.stage_eq, hend.cand_eq, hend.port_eq, hbusy⟩

/-! ### A frame's operation where its frame stands in the row -/

/-- The whole state that a rejection leaves (R176). -/
theorem State.reject_eq (s : State) (r : Reason) :
    s.reject r =
      { s with
        accept := false, oId := 0, oChan := 0, oEvt := 0, oState := false, oHb := false
        reason := some r, stage := .done } := rfl

/-- A field that has a value lies inside the row. -/
theorem le_nbits_of_rowBits {c : Candidate} {pol : Bool} {a n : Nat} {w : BitVec n} (hn : n ≠ 0)
    (h : rowBits c pol a n = some w) : a + n ≤ c.nbits := by
  by_contra hout
  cases h.symm.trans (rowBits_eq_none_iff.2 ⟨hn, by omega⟩)

section
variable {s t : State} {p : Nat} {f : FrameWord}

/-- The transaction of the frame that stands first in the row ends as the candidate's does. -/
theorem TransactionEnd.frameTransaction_eq (h : TransactionEnd s t) (hrows : s.cand.rows = 1)
    (hm : FirstMatch s.cand true p) (hf : rowBits s.cand true p 60 = some f) :
    frameTransaction (FrameWord.channel f) (polyFor (FrameWord.channel f)) (FrameWord.ident f) (FrameWord.event f)
      (FrameWord.checksum f) s = .next t := by
  obtain ⟨u, hu, hend⟩ :=
    frameTransaction_end hrows hm (le_nbits_of_rowBits (by decide) hf) (holdsRow_of_frame hf)
  rw [hu, hend.unique h]

/-- The grain takes no part in a transaction. -/
theorem TransactionEnd.withGrain (h : TransactionEnd s t) (g : Grain) :
    TransactionEnd { s with grain := g } { t with grain := g } := by
  cases h with
  | shortBuffer h => exact TransactionEnd.shortBuffer (s := { s with grain := g }) h
  | noPreamble h hm => exact TransactionEnd.noPreamble (s := { s with grain := g }) h hm
  | truncated h p hm hr => exact TransactionEnd.truncated (s := { s with grain := g }) h p hm hr
  | zeroCollision h p hm hr b hb hz => exact TransactionEnd.zeroCollision (s := { s with grain := g }) h p hm hr b hb hz
  | crcMismatch h p hm hr b hb hz hk =>
    exact TransactionEnd.crcMismatch (s := { s with grain := g }) h p hm hr b hb hz hk
  | accepted h p hm hr b hb hz hk => exact TransactionEnd.accepted (s := { s with grain := g }) h p hm hr b hb hz hk

end

/-- Settles O37: the run by stages, the frame's operation and the step that fetches it all end the candidate's
transaction, which has one end. -/
theorem frameOperationEqualsStages : Obligations.FrameOperationEqualsStages := by
  unfold Obligations.FrameOperationEqualsStages
  intro s f i hr hs hh hg hl hi
  obtain ⟨⟨hrows, _⟩, p, hm, hf⟩ := locateFrame_eq_some_iff.1 hl
  obtain ⟨n, t, hn, hrun, hend, _⟩ := transaction_run hr hs hh hg
  have hpre := preamble_of_located hm.1 hf
  have hstart : s.starting = true := State.starting_iff.2 ⟨hr, hs⟩
  refine ⟨n, t, hn, ?_, hend.stage_eq, hrun, ?_⟩
  · cases (decode_frame_of_preamble hpre).symm.trans hi
    rw [exec_ofFrame, execFrame_starting hstart]
    exact hend.frameTransaction_eq hrows hm hf
  · rw [step_starting_frame (s := { s with grain := .transaction }) hh hstart (fetchWord_frame rfl hstart hl) hpre]
    exact (hend.withGrain .transaction).frameTransaction_eq hrows hm hf

/-- Settles O33: the end of the candidate's transaction is the one whose test the frame's fields pass. -/
theorem frameOperationDecodesItsFields : Obligations.FrameOperationDecodesItsFields := by
  unfold Obligations.FrameOperationDecodesItsFields
  intro c d e k s p hr hs hrows hm hf
  have hroom := le_nbits_of_rowBits (by decide) hf
  have hshape : s.cand.rows = 1 ∧ 60 ≤ s.cand.nbits := ⟨hrows, by omega⟩
  have hexec {t : State} (h : TransactionEnd s t) : exec (Instr.ofFrame c d e k) s = .next t := by
    rw [exec_ofFrame, execFrame_starting (State.starting_iff.2 ⟨hr, hs⟩)]
    simpa only [channel_frameWord, ident_frameWord, event_frameWord, checksum_frameWord] using
      h.frameTransaction_eq hrows hm hf
  have hfields := holdsRow_of_frame hf
  rw [channel_frameWord, ident_frameWord, event_frameWord, checksum_frameWord] at hfields
  obtain ⟨b, hb, rfl, rfl, rfl, rfl⟩ :
      ∃ b, HoldsRow s.cand true (p + 12) b ∧ b.chan = c ∧ b.ident = d ∧ b.evt = e ∧ b.ckt = k :=
    ⟨_, hfields, by simp, by simp, by simp, by simp⟩
  refine ⟨b, rfl, rfl, rfl, rfl, fun hz => ?_, fun poly ckc hpoly hckc hz => ?_⟩
  · rw [hexec (.zeroCollision hshape p hm hroom b hb hz)]
    simp [State.reject_eq, State.locatedAt]
  replace hpoly : poly = polyFor b.chan := hpoly.trans (polyFor_eq b.chan).symm
  replace hckc : ckc = crc16 (polyFor b.chan) b.covered := hpoly ▸ hckc
  refine ⟨fun hk => ?_, fun hk => ?_⟩
  · rw [hexec (.crcMismatch hshape p hm hroom b hb hz (hckc ▸ hk))]
    simp [State.reject_eq, State.summedAt, State.locatedAt, hpoly, hckc]
  · rw [hexec (.accepted hshape p hm hroom b hb hz (hk.trans hckc))]
    simp [State.acceptWith, State.summedAt, State.locatedAt, hpoly, hckc]

/-! ### A frame's operation where no frame fits -/

section
variable {s t u : State} {c : Channel} {poly : Word16} {d : Ident} {e : Byte} {k : Word16}

theorem frameTransaction_shortBuffer (h : ¬ (s.cand.rows = 1 ∧ 60 ≤ s.cand.nbits)) :
    frameTransaction c poly d e k s = .next (s.startAction.reject .shortBuffer) := by
  have hshape : execShape s.startAction = .next (s.startAction.reject .shortBuffer) :=
    (StageStep.shortBuffer (s := s.startAction) h).exec_eq
  rw [frameTransaction, hshape, thenStage_done rfl]

/-- A transaction that BOUND rejects ends there, before the frame's own fields are looked at (R138). -/
theorem frameTransaction_rejected_by_bound (h : s.cand.rows = 1 ∧ 60 ≤ s.cand.nbits)
    (hsearch : StageStep ((s.startAction.setPol true).goto .search) .search u) (hbound : StageStep u .bound t)
    (ht : t.stage = .done) : frameTransaction c poly d e k s = .next t := by
  have hshape : execShape s.startAction = .next (s.startAction.goto .invert) :=
    (StageStep.shape (s := s.startAction) h).exec_eq
  have hinvert : execInvert (s.startAction.goto .invert) = .next ((s.startAction.setPol true).goto .search) := rfl
  have hfound : execSearch ((s.startAction.setPol true).goto .search) = .next u := hsearch.exec_eq
  have hreject : execBound u = .next t := hbound.exec_eq
  have hu : u.stage = .bound := by cases hsearch <;> simp_all [Stage.atRest]
  rw [frameTransaction, hshape, thenStage_next (by simp), hinvert, thenStage_next (by simp), hfound,
    thenStage_next (by simp [hu]), hreject, thenStage_done ht]

end

/-- Settles O34: a candidate without a frame is rejected by SHAPE, or by BOUND with what SEARCH has recorded. -/
theorem frameOperationRejectsWhereNoFrameFits : Obligations.FrameOperationRejectsWhereNoFrameFits := by
  unfold Obligations.FrameOperationRejectsWhereNoFrameFits
  intro c d e k s hr hs
  rw [exec_ofFrame, execFrame_starting (State.starting_iff.2 ⟨hr, hs⟩)]
  refine ⟨fun hbad => ?_, fun hrows hlong hno => ?_, fun p hrows hlong hm hshort => ?_⟩
  · rw [frameTransaction_shortBuffer (by omega)]
    simp [State.reject_eq, Payload.zero]
  · rw [frameTransaction_rejected_by_bound ⟨hrows, hlong⟩ (.missing hno) (.noPreamble rfl) rfl]
    simp [State.reject_eq, Payload.zero]
  · rw [frameTransaction_rejected_by_bound ⟨hrows, hlong⟩ (.found hm) (.truncated rfl hshort) rfl]
    simp [State.reject_eq, Payload.zero]

/-! ### The document's testable properties (R142) -/

/-- A candidate that SHAPE rejects ends its transaction two steps after the start (R142 item 1). -/
theorem run_two_of_unshaped {s : State} (hr : s.stage.atRest = true) (hs : s.start = true) (hh : s.host = [])
    (hg : s.grain = .stage) (h : ¬ (s.cand.rows = 1 ∧ 60 ≤ s.cand.nbits)) :
    Host.Core.run Sys2Proof.core 2 s = .next (s.startAction.reject .shortBuffer) := by
  have hstart : step s = .next s.startAction :=
    step_starting_stage hh (State.starting_iff.2 ⟨hr, hs⟩) (fetchWord_stage hg)
  have hreject : step s.startAction = .next (s.startAction.reject .shortBuffer) := by
    rw [step_at (s := s.startAction) hh hg rfl]
    exact (StageStep.shortBuffer (s := s.startAction) h).exec_eq
  rw [run_succ hstart, run_succ hreject, run_zero]

/-- A candidate whose identity and checksum fields are both zero is not recognized (R142 item 2). -/
theorem decodeCandidate_zero_fields {c : Candidate} {p : Nat} (hm : FirstMatch c true p)
    (hid : rowBits c true (p + 16) 20 = some 0) (hck : rowBits c true (p + 44) 16 = some 0) :
    decodeCandidate c = .notRecognized := by
  have hroom : p + 44 + 16 ≤ c.nbits := le_nbits_of_rowBits (by decide) hck
  by_cases hrows : c.rows = 1
  · obtain ⟨b, _, hb⟩ := loadBytes_some (c := c) (pol := true) (a := p + 12) Payload.zero (by omega)
    have hident : b.ident = 0 := Option.some.inj (hb.rowBits_ident.symm.trans hid)
    have hckt : b.ckt = 0 := Option.some.inj (hb.rowBits_ckt.symm.trans hck)
    rw [decodeCandidate_located hrows hm hroom hb, if_pos ⟨hident, hckt⟩]
  · exact decodeCandidate_unshaped fun h => hrows h.1

/-- Every stage but EXTRACT answers a next state in every state. -/
theorem exec_ofStage_next (s : State) {st : Stage} (h : st ≠ .extract) : ∃ t, exec (Instr.ofStage st) s = .next t := by
  rcases exec_ofStage_cases s st with ⟨t, ht, _⟩ | ⟨hst, _⟩
  · exact ⟨t, ht⟩
  · exact absurd hst h

/-- Settles O38: the four properties in their order; CRC reads neither register that it writes. -/
theorem documentedDecodeProperties : Obligations.DocumentedDecodeProperties := by
  unfold Obligations.DocumentedDecodeProperties
  refine ⟨fun c hbad => ?_, fun c p => decodeCandidate_zero_fields, ?_, fun s i hi => ?_⟩
  · have hshape : ¬ (c.rows = 1 ∧ 60 ≤ c.nbits) := by omega
    refine ⟨decodeCandidate_unshaped hshape, ?_⟩
    rintro s rfl hr hs hh hg
    exact ⟨_, run_two_of_unshaped hr hs hh hg hshape, rfl, rfl, rfl⟩
  · rintro s t ⟨⟩
    rfl
  · simp only [List.mem_cons, List.not_mem_nil, or_false] at hi
    rcases hi with rfl | rfl | rfl | rfl
    · exact exec_ofStage_next s (st := .shape) (by decide)
    · exact exec_ofStage_next s (st := .bound) (by decide)
    · exact exec_ofStage_next s (st := .zchk) (by decide)
    · exact exec_ofStage_next s (st := .cmp) (by decide)

end Sys2Proof.Machine
end

section
/-! The Checksum Validator (43_checksum_validator.md), the stages: PSEL, CRC and CMP. -/

namespace Sys2Proof.Machine

/-- The vendor polynomial is chosen by the exact value of the channel, the high half of `B[0]` (R145). -/
theorem polyFor_chan (b : Payload) :
    polyFor b.chan = if b.b0.toNat / 16 = 2 ∨ b.b0.toNat / 16 = 10 then 0x8050#16 else 0x8005#16 := by
  simp only [polyFor_eq, ← BitVec.toNat_inj, Payload.chan_toNat, BitVec.toNat_ofNat, Nat.reducePow, Nat.reduceMod]

/-- Settles O23: PSEL writes the polynomial of the channel in the buffer. -/
theorem pselSelectsPolynomialByChannel : Obligations.PselSelectsPolynomialByChannel := by
  unfold Obligations.PselSelectsPolynomialByChannel
  refine ⟨encode_ofStage .psel, fun s => ?_, rfl⟩
  rw [BitVec.ofNat_eq_ofNat, BitVec.ofNat_eq_ofNat, ← polyFor_chan]
  exact StageStep.psel.exec_eq

theorem crcShifts_eq_iterate (p : Word16) (n : Nat) (r : Word16) : crcShifts p n r = (crcShift p)^[n] r := by
  induction n generalizing r with
  | zero => rfl
  | succ n ih => exact ih (crcShift p r)

/-- Settles O24: CRC writes the checksum, whose shifts and bytes are R148's. -/
theorem crcStageComputesChecksum : Obligations.CrcStageComputesChecksum := by
  unfold Obligations.CrcStageComputesChecksum
  refine ⟨encode_ofStage .crc, fun s => StageStep.crc.exec_eq, fun p r b => ?_, fun p r => rfl, crc16_four⟩
  exact crcShifts_eq_iterate p 8 _

/-- Settles O25: the two conditions are the tests of CMP's two transitions. -/
theorem cmpAcceptsOnlyEqualChecksums : Obligations.CmpAcceptsOnlyEqualChecksums := by
  unfold Obligations.CmpAcceptsOnlyEqualChecksums
  refine ⟨encode_ofStage .cmp, fun s => ?_⟩
  simp only [ne_eq, ← Payload.ckt_toNat, BitVec.toNat_inj]
  exact ⟨fun heq => (StageStep.cmp heq).exec_eq, fun hne => (StageStep.crcMismatch hne).exec_eq⟩

end Sys2Proof.Machine
end

section
/-! The checksum register, one message bit at a time (43_checksum_validator.md R149): the bit-serial form and the
polynomial form; its linearity and the values of single messages (R150). -/

namespace Sys2Proof.Machine

/-! ### The bit-serial form -/

/-- One step of R149's bit-serial form: shift left, and XOR the polynomial in when bit 15 differs from the bit fed. -/
def crcFeed (p r : Word16) (m : Bool) : Word16 :=
  if r.getLsbD 15 != m then (r <<< 1) ^^^ p else r <<< 1

/-- The register after the first `n` bits of a word, most significant first, are fed into it. -/
def crcFeedWord {w : Nat} (p : Word16) (v : BitVec w) (n : Nat) (r : Word16) : Word16 :=
  (List.range n).foldl (fun r t => crcFeed p r (v.getMsbD t)) r

theorem crcFeedWord_append {m n : Nat} (p : Word16) (u : BitVec m) (v : BitVec n) (r : Word16) :
    crcFeedWord p (u ++ v) (m + n) r = crcFeedWord p v n (crcFeedWord p u m r) := by
  have hu : ∀ q t, t ∈ List.range m → crcFeed p q ((u ++ v).getMsbD t) = crcFeed p q (u.getMsbD t) := by
    intro q t ht
    rw [BitVec.getMsbD_append, if_neg (Nat.not_le.2 (List.mem_range.1 ht))]
  have hv : ∀ t, (u ++ v).getMsbD (m + t) = v.getMsbD t := by
    intro t
    rw [BitVec.getMsbD_append, if_pos (Nat.le_add_right m t), Nat.add_sub_cancel_left]
  unfold crcFeedWord
  rw [List.range_add, List.foldl_append, List.foldl_map, List.foldl_ext _ _ _ hu]
  simp only [hv]

/-- A shift of the register with the pending bits XORed in feeds the first of them and leaves the others pending. -/
theorem crcShift_xor_pending (p r x : Word16) : crcShift p (r ^^^ x) = crcFeed p r x.msb ^^^ (x <<< 1) := by
  have hshift : (r ^^^ x) <<< 1 = (r <<< 1) ^^^ (x <<< 1) := BitVec.shiftLeft_xor_distrib r x 1
  unfold crcShift crcFeed
  rw [BitVec.msb_xor, hshift, show r.getLsbD 15 = r.msb from rfl]
  cases r.msb <;> cases x.msb <;> simp [BitVec.xor_assoc, BitVec.xor_comm p]

/-- Shifting pending bits out one by one is feeding them, once none is left. -/
theorem crcShifts_xor_pending (p r x : Word16) (n : Nat) (hx : x <<< n = 0#16) :
    crcShifts p n (r ^^^ x) = crcFeedWord p x n r := by
  induction n generalizing r x with
  | zero => simpa [crcShifts, crcFeedWord] using hx
  | succ n ih =>
    have hrest : (x <<< 1) <<< n = 0#16 := by rw [← BitVec.shiftLeft_add, Nat.add_comm, hx]
    rw [crcShifts, crcShift_xor_pending, ih _ _ hrest]
    simp [crcFeedWord, List.range_succ_eq_map, List.foldl_map, BitVec.msb]

/-- A message byte (R148) is its eight bits, most significant first. -/
theorem crcByte_eq_feed (p r : Word16) (b : Byte) : crcByte p r b = crcFeedWord p b 8 r := by
  have hlow : ((b.zeroExtend 16 : Word16) <<< 8) <<< 8 = 0#16 := by
    rw [← BitVec.shiftLeft_add]
    exact BitVec.shiftLeft_eq_zero (by decide)
  have hbits : ∀ t, ((b.zeroExtend 16 : Word16) <<< 8).getMsbD t = b.getMsbD t := by
    intro t
    simp [BitVec.getMsbD_setWidth, BitVec.zeroExtend]
  rw [crcByte, crcShifts_xor_pending p r _ 8 hlow]
  simp only [crcFeedWord, hbits]

theorem crc16_eq_feed (p : Word16) (b0 b1 b2 b3 : Byte) :
    crc16 p [b0, b1, b2, b3] = crcFeedWord p (b0 ++ b1 ++ b2 ++ b3) 32 0#16 := by
  have h := crcFeedWord_append p (b0 ++ b1 ++ b2) b3 0#16
  rw [crcFeedWord_append p (b0 ++ b1) b2, crcFeedWord_append p b0 b1] at h
  rw [crc16_four, crcByte_eq_feed, crcByte_eq_feed, crcByte_eq_feed, crcByte_eq_feed]
  exact h.symm

/-- Settles O28: each byte of R148 feeds its eight bits, and the four bytes follow one another. -/
theorem checksumBitSerialForm : Obligations.ChecksumBitSerialForm := by
  unfold Obligations.ChecksumBitSerialForm
  exact crc16_eq_feed

/-! ### The polynomial form -/

section
open Polynomial

/-- A register as a polynomial over GF(2), bit `n` the coefficient of `x^n`. -/
noncomputable def wordPoly (v : Word16) : (ZMod 2)[X] :=
  ∑ n ∈ Finset.range 16, if v.getLsbD n then X ^ n else 0

/-- The first `n` bits of a message as a polynomial over GF(2), the last of them the constant. -/
noncomputable def messagePoly {w : Nat} (v : BitVec w) (n : Nat) : (ZMod 2)[X] :=
  ∑ t ∈ Finset.range n, if v.getMsbD t then X ^ (n - 1 - t) else 0

theorem ite_xor_eq_add (a b : Bool) (f : (ZMod 2)[X]) :
    (if a ^^ b then f else 0) = (if a then f else 0) + (if b then f else 0) := by
  cases a <;> cases b <;> simp [CharTwo.add_self_eq_zero]

theorem wordPoly_xor (u v : Word16) : wordPoly (u ^^^ v) = wordPoly u + wordPoly v := by
  simp only [wordPoly, BitVec.getLsbD_xor, ite_xor_eq_add, Finset.sum_add_distrib]

theorem wordPoly_zero : wordPoly 0#16 = 0 := by
  simp [wordPoly]

/-- Multiplied by `x` a register is its shift, and bit 15 becomes the coefficient of `x^16`. -/
theorem wordPoly_mul_X (r : Word16) :
    wordPoly r * X = wordPoly (r <<< 1) + if r.getLsbD 15 then X ^ 16 else 0 := by
  have hshift : wordPoly (r <<< 1) = ∑ n ∈ Finset.range 15, if r.getLsbD n then X ^ (n + 1) else 0 := by
    have hfirst : (r <<< 1).getLsbD 0 = false := by simp
    have hnext : ∀ n ∈ Finset.range 15, (r <<< 1).getLsbD (n + 1) = r.getLsbD n := by
      intro n hn
      have hlt : n + 1 < 16 := Nat.succ_lt_succ (Finset.mem_range.1 hn)
      rw [BitVec.getLsbD_shiftLeft, Nat.add_sub_cancel, decide_eq_true hlt]
      simp
    rw [wordPoly, Finset.sum_range_succ', hfirst, if_neg Bool.false_ne_true, add_zero]
    exact Finset.sum_congr rfl fun n hn => by rw [hnext n hn]
  rw [hshift, ← Finset.sum_range_succ (fun n => if r.getLsbD n then X ^ (n + 1) else 0), wordPoly, Finset.sum_mul]
  simp only [ite_mul, zero_mul, pow_succ]

theorem messagePoly_succ {w : Nat} (v : BitVec w) (n : Nat) :
    messagePoly v (n + 1) = messagePoly v n * X + if v.getMsbD n then 1 else 0 := by
  have hshift : ∀ t ∈ Finset.range n,
      (if v.getMsbD t then X ^ (n + 1 - 1 - t) else 0 : (ZMod 2)[X]) =
        (if v.getMsbD t then X ^ (n - 1 - t) else 0) * X := by
    intro t ht
    have hlt := Finset.mem_range.1 ht
    rw [ite_mul, zero_mul, ← pow_succ, show n + 1 - 1 - t = n - 1 - t + 1 by omega]
  rw [messagePoly, Finset.sum_range_succ, Finset.sum_congr rfl hshift, ← Finset.sum_mul]
  simp [messagePoly]

/-- Feeding a bit multiplies by `x`, adds the bit at `x^16`, and takes the generator off when that coefficient is 1. -/
theorem wordPoly_crcFeed (p r : Word16) (m : Bool) :
    wordPoly r * X + (if m then 1 else 0) * X ^ 16 =
      (if r.getLsbD 15 != m then 1 else 0) * (X ^ 16 + wordPoly p) + wordPoly (crcFeed p r m) := by
  have htwice := CharTwo.add_self_eq_zero (wordPoly p)
  rw [wordPoly_mul_X, ite_mul, one_mul, zero_mul, add_assoc, ← ite_xor_eq_add, crcFeed,
    ← Bool.bne_eq_xor]
  split
  · rw [wordPoly_xor]
    linear_combination -htwice
  · ring

/-- After any number of bits the register is what those bits leave modulo the generator. -/
theorem messagePoly_mul_eq {w : Nat} (p : Word16) (v : BitVec w) (n : Nat) :
    ∃ q : (ZMod 2)[X],
      messagePoly v n * X ^ 16 = q * (X ^ 16 + wordPoly p) + wordPoly (crcFeedWord p v n 0#16) := by
  induction n with
  | zero => exact ⟨0, by simp [messagePoly, crcFeedWord, wordPoly_zero]⟩
  | succ n ih =>
    obtain ⟨q, hq⟩ := ih
    have hstep := wordPoly_crcFeed p (crcFeedWord p v n 0#16) (v.getMsbD n)
    have hfeed : crcFeedWord p v (n + 1) 0#16 = crcFeed p (crcFeedWord p v n 0#16) (v.getMsbD n) := by
      simp [crcFeedWord, List.range_succ]
    refine ⟨q * X + if (crcFeedWord p v n 0#16).getLsbD 15 != v.getMsbD n then 1 else 0, ?_⟩
    rw [messagePoly_succ, hfeed]
    linear_combination X * hq + hstep

end

/-- Settles O29: the register is the message's remainder after every bit, so also after the last. -/
theorem checksumIsPolynomialRemainder : Obligations.ChecksumIsPolynomialRemainder := by
  unfold Obligations.ChecksumIsPolynomialRemainder
  intro p b0 b1 b2 b3
  rw [crc16_eq_feed]
  exact messagePoly_mul_eq p (b0 ++ b1 ++ b2 ++ b3) 32

/-! ### Linearity and single messages -/

theorem crcByte_zero (p : Word16) : crcByte p 0#16 0#8 = 0#16 := by
  have h := crcByte_xor p 0#16 0#16 0#8 0#8
  rwa [BitVec.xor_self, BitVec.xor_self, BitVec.xor_self] at h

/-- Settles O30: each byte's step is linear, and starts from 0. -/
theorem checksumIsLinear : Obligations.ChecksumIsLinear := by
  unfold Obligations.ChecksumIsLinear
  intro p a0 a1 a2 a3 b0 b1 b2 b3
  simp only [crc16_four, ← crcByte_xor, BitVec.xor_self, crcByte_zero, BitVec.ofNat_eq_ofNat, and_self]

/-- Settles O31: each value is the register after the 32 shifts. -/
theorem checksumUnitValuesAndSyndromes : Obligations.ChecksumUnitValuesAndSyndromes := by
  unfold Obligations.ChecksumUnitValuesAndSyndromes
  decide +kernel

end Sys2Proof.Machine
end

section
/-! What an accepted frame's checksum says of its payload (43_checksum_validator.md R150 item 5, R154): the low nibble
of a vendor frame is 0, and the 48 payload bits of any frame have even parity. -/

namespace Sys2Proof.Machine

/-! ### Accepted candidates -/

/-- An accepted candidate has a located payload, whose checksum is right and whose fields are the record. -/
theorem decodeCandidate_accepted {c : Candidate} {r : Record} {p : Nat} (h : decodeCandidate c = .accepted r)
    (hm : FirstMatch c true p) :
    ∃ b, HoldsRow c true (p + 12) b ∧ b.ckt = crc16 (polyFor b.chan) b.covered ∧
      r = ⟨b.ident, b.chan, b.evt, b.evt.getLsbD 7, b.evt.getLsbD 2⟩ := by
  have hshape : c.rows = 1 ∧ 60 ≤ c.nbits := by
    by_contra hbad
    cases h.symm.trans (decodeCandidate_unshaped hbad)
  have hroom : p + 60 ≤ c.nbits := by
    by_contra hshort
    cases h.symm.trans (decodeCandidate_truncated hm (Nat.not_le.1 hshort))
  obtain ⟨b, _, hb⟩ := loadBytes_some (c := c) (pol := true) (a := p + 12) Payload.zero (by omega)
  rw [decodeCandidate_located hshape.1 hm hroom hb] at h
  split_ifs at h with hz hk
  exact ⟨b, hb, not_not.1 hk, (Verdict.accepted.inj h).symm⟩

/-! ### The low bits of the checksum -/

/-- The low `n` bits of a register are 0. -/
def LowZero (n : Nat) (v : Word16) : Prop := ∀ i, i < n → v.getLsbD i = false

namespace LowZero
variable {n : Nat} {p u v : Word16}

theorem xor (hu : LowZero n u) (hv : LowZero n v) : LowZero n (u ^^^ v) := fun i hi => by
  rw [BitVec.getLsbD_xor, hu i hi, hv i hi, Bool.xor_false]

theorem shiftLeft (hv : LowZero n v) : LowZero n (v <<< 1) := fun i hi => by
  rw [BitVec.getLsbD_shiftLeft, hv (i - 1) (by omega), Bool.and_false]

theorem highHalf (b : Byte) : LowZero 8 (b.zeroExtend 16 <<< 8) := fun i hi => by
  simp [hi]

theorem mono {m : Nat} (hv : LowZero n v) (h : m ≤ n) : LowZero m v := fun i hi => hv i (by omega)

theorem crcShift (hp : LowZero n p) (hv : LowZero n v) : LowZero n (crcShift p v) := by
  unfold Machine.crcShift
  split
  · exact hv.shiftLeft.xor hp
  · exact hv.shiftLeft

theorem crcShifts (hp : LowZero n p) (hv : LowZero n v) (k : Nat) : LowZero n (crcShifts p k v) := by
  induction k generalizing v with
  | zero => exact hv
  | succ k ih => exact ih (hp.crcShift hv)

theorem crcByte (hp : LowZero n p) (hv : LowZero n v) (hn : n ≤ 8) (b : Byte) : LowZero n (crcByte p v b) :=
  hp.crcShifts (hv.xor ((highHalf b).mono hn)) 8

/-- Bits below a polynomial's lowest are never set, as long as no message byte enters there. -/
theorem crc16 (hp : LowZero n p) (hn : n ≤ 8) (b0 b1 b2 b3 : Byte) : LowZero n (crc16 p [b0, b1, b2, b3]) := by
  have hinit : LowZero n 0#16 := fun i _ => BitVec.getLsbD_zero
  rw [crc16_four]
  exact hp.crcByte (hp.crcByte (hp.crcByte (hp.crcByte hinit hn b0) hn b1) hn b2) hn b3

theorem extract_eq_zero (hv : LowZero n v) : v.extractLsb' 0 n = 0#n := by
  apply BitVec.eq_of_getLsbD_eq
  intro i hi
  rw [BitVec.getLsbD_extractLsb', Nat.zero_add, hv i hi, Bool.and_false, BitVec.getLsbD_zero]

theorem and_lowNibble (hv : LowZero 4 v) : v &&& 0x000F#16 = 0#16 := by
  have hmask : 0x000F#16 = 0#12 ++ BitVec.allOnes 4 := by decide
  apply BitVec.eq_of_getLsbD_eq
  intro i hi
  rw [BitVec.getLsbD_and, BitVec.getLsbD_zero]
  by_cases h : i < 4
  · rw [hv i h, Bool.false_and]
  · rw [hmask, BitVec.getLsbD_append, if_neg h, BitVec.getLsbD_zero, Bool.and_false]

end LowZero

theorem vendorPolynomial_lowZero : LowZero 4 0x8050#16 := by
  unfold LowZero
  decide

/-- Settles O32: no bit of 0x8050 is in the low nibble, and an accepted frame ends with its checksum. -/
theorem vendorChecksumLowNibbleZero : Obligations.VendorChecksumLowNibbleZero := by
  unfold Obligations.VendorChecksumLowNibbleZero
  have hlow := vendorPolynomial_lowZero.crc16 (by decide)
  refine ⟨fun b0 b1 b2 b3 => (hlow b0 b1 b2 b3).and_lowNibble, fun c r h hvendor p hm => ?_⟩
  obtain ⟨b, hb, hck, rfl⟩ := decodeCandidate_accepted h hm
  have hpoly : polyFor b.chan = 0x8050#16 := (polyFor_eq b.chan).trans (if_pos hvendor)
  have hnibble : b.ckt.extractLsb' 0 4 = 0 := by
    rw [hck, hpoly]
    exact (hlow b.b0 b.b1 b.b2 b.b3).extract_eq_zero
  rw [← hnibble]
  exact rowBits_extractLsb' 0 4 hb.rowBits_ckt (by decide)

/-! ### The parity of the payload -/

theorem parity_congr {w w' : Nat} {u : BitVec w} {v : BitVec w'} {n : Nat}
    (h : ∀ i, i < n → u.getLsbD i = v.getLsbD i) : parity u n = parity v n := by
  induction n with
  | zero => rfl
  | succ n ih => rw [parity, parity, ih fun i hi => h i (by omega), h n (by omega)]

theorem parity_append {m n : Nat} (u : BitVec m) (v : BitVec n) :
    parity (u ++ v) (m + n) = (parity u m ^^ parity v n) := by
  suffices h : ∀ k, parity (u ++ v) (k + n) = (parity u k ^^ parity v n) from h m
  intro k
  induction k with
  | zero =>
    rw [Nat.zero_add, parity_congr (u := u ++ v) (v := v) fun i hi => by rw [BitVec.getLsbD_append, if_pos hi]]
    exact (Bool.false_xor _).symm
  | succ k ih =>
    rw [show k + 1 + n = k + n + 1 by omega, parity, parity, ih, BitVec.getLsbD_append, if_neg (by omega),
      Nat.add_sub_cancel, Bool.xor_right_comm]

theorem parity_twoPow {w i : Nat} (hi : i < w) (n : Nat) : parity (BitVec.twoPow w i) n = decide (i < n) := by
  induction n with
  | zero => rfl
  | succ n ih =>
    rw [parity, ih, BitVec.getLsbD_twoPow, decide_eq_true hi, Bool.true_and]
    by_cases h : i = n <;> simp [h, Nat.le_iff_lt_or_eq]

/-- The 48 payload bits, read as one field, are the six bytes in order. -/
theorem HoldsRow.rowBits_payload {c : Candidate} {pol : Bool} {a : Nat} {b : Payload} (hb : HoldsRow c pol a b) :
    rowBits c pol a 48 = some (b.b0 ++ b.b1 ++ b.b2 ++ b.b3 ++ b.b4 ++ b.b5) :=
  rowBits_append (rowBits_append (rowBits_append (rowBits_append (rowBits_append (hb 0) (hb 1)) (hb 2)) (hb 3)) (hb 4))
    (hb 5)

/-- Both polynomials have odd weight, so whatever the family the checksum has the parity of the bits it covers. -/
theorem accepted_payload_parity {c : Candidate} {r : Record} {p : Nat} (h : decodeCandidate c = .accepted r)
    (hm : FirstMatch c true p) : ∃ v : BitVec 48, rowBits c true (p + 12) 48 = some v ∧ parity v 48 = false := by
  obtain ⟨b, hb, hck, _⟩ := decodeCandidate_accepted h hm
  have hckt : parity b.ckt 16 = (parity b.b4 8 ^^ parity b.b5 8) := parity_append b.b4 b.b5
  have hcovered := parity_crc16 (parity_polyFor b.chan) b.b0 b.b1 b.b2 b.b3
  refine ⟨_, hb.rowBits_payload, ?_⟩
  calc parity (b.b0 ++ b.b1 ++ b.b2 ++ b.b3 ++ b.b4 ++ b.b5) (8 + 8 + 8 + 8 + 8 + 8)
    _ = (parity b.b0 8 ^^ parity b.b1 8 ^^ parity b.b2 8 ^^ parity b.b3 8 ^^ parity b.b4 8 ^^ parity b.b5 8) := by
      simp only [parity_append]
    _ = (parity (crc16 (polyFor b.chan) b.covered) 16 ^^ parity b.ckt 16) := by
      rw [hckt, Payload.covered, hcovered, Bool.xor_assoc _ (parity b.b4 8)]
    _ = false := by rw [← hck, Bool.xor_self]

/-! ### One flipped bit -/

/-- The candidate with bit `i` of its row flipped. -/
def Candidate.flipBit (c : Candidate) (i : Nat) : Candidate := { c with raw := c.raw.modify i not }

section
variable {c : Candidate} {pol : Bool} {i : Nat}

theorem nbits_flipBit : (c.flipBit i).nbits = c.nbits := List.length_modify ..

theorem rowBit_flipBit (j : Nat) : rowBit (c.flipBit i) pol j = (rowBit c pol j).map (· ^^ decide (i = j)) := by
  unfold rowBit Candidate.flipBit
  rw [List.getElem?_modify]
  cases c.raw[j]? with
  | none => rfl
  | some b => by_cases h : i = j <;> cases b <;> cases pol <;> simp [h]

theorem rowBit_flipBit_of_lt {j : Nat} (h : j < i) : rowBit (c.flipBit i) pol j = rowBit c pol j := by
  rw [rowBit_flipBit, decide_eq_false (by omega)]
  simp

theorem matchAt_flipBit_iff {q : Nat} (h : q + 12 ≤ i) : MatchAt (c.flipBit i) pol q ↔ MatchAt c pol q := by
  have hbit : ∀ j, j < 12 → rowBit (c.flipBit i) pol (q + j) = rowBit c pol (q + j) := fun j hj =>
    rowBit_flipBit_of_lt (by omega)
  unfold MatchAt
  rw [nbits_flipBit]
  exact and_congr_right fun _ => forall₂_congr fun j hj => by rw [hbit j hj]

/-- A flip behind the first match leaves it the first match. -/
theorem FirstMatch.flipBit {p : Nat} (hm : FirstMatch c pol p) (h : p + 12 ≤ i) : FirstMatch (c.flipBit i) pol p :=
  ⟨(matchAt_flipBit_iff h).2 hm.1, fun q hq => mt (matchAt_flipBit_iff (by omega)).1 (hm.2 q hq)⟩

/-- A flip inside a field flips the bit of its value that stands there. -/
theorem rowBits_flipBit {a k n : Nat} {v : BitVec n} (hv : rowBits c pol a n = some v) (hk : k < n) :
    rowBits (c.flipBit (a + k)) pol a n = some (v ^^^ BitVec.twoPow n (n - 1 - k)) := by
  rw [rowBits_eq_some_iff] at hv ⊢
  intro j hj
  rw [rowBit_flipBit, hv j hj, BitVec.getMsbD_xor, BitVec.getMsbD_twoPow,
    decide_eq_true (show n - 1 - k < n by omega)]
  have hplace : k = j ↔ j = n - (n - 1 - k) - 1 := by omega
  simp [hplace]

end

/-- Settles O41: an accepted payload has even parity, and one flipped bit makes it odd. -/
theorem singleBitCorruptionRejected : Obligations.SingleBitCorruptionRejected := by
  unfold Obligations.SingleBitCorruptionRejected
  intro c r p k h hm hk
  obtain ⟨v, hv, heven⟩ := accepted_payload_parity h hm
  have hflip := rowBits_flipBit hv hk
  change decodeCandidate (c.flipBit (p + 12 + k)) = .notRecognized
  cases hd : decodeCandidate (c.flipBit (p + 12 + k)) with
  | notRecognized => rfl
  | accepted r' =>
    obtain ⟨v', hv', heven'⟩ := accepted_payload_parity hd (hm.flipBit (by omega))
    cases hv'.symm.trans hflip
    rw [parity_xor, heven, parity_twoPow (by omega), decide_eq_true (by omega)] at heven'
    cases heven'

end Sys2Proof.Machine
end

section
/-! The Event Decoder (44_event_decoder.md): EVDEC as a stage, the record of an accepted frame (R162) and the labels of
its flags (R164). -/

namespace Sys2Proof.Machine

/-- Settles O39: the record is the views of a buffer that holds the frame's payload, and the two event bits are the
payload's bits 24 and 29. -/
theorem acceptedRecordIsFrameFields : Obligations.AcceptedRecordIsFrameFields := by
  unfold Obligations.AcceptedRecordIsFrameFields
  intro c r p h hm
  obtain ⟨b, hb, _, rfl⟩ := decodeCandidate_accepted h hm
  have hstate : rowBit c true (p + 36) = some (b.evt.getLsbD 7) := holdsRow_bit hb (k := 24) (by decide)
  have hheartbeat : rowBit c true (p + 41) = some (b.evt.getLsbD 2) := holdsRow_bit hb (k := 29) (by decide)
  exact ⟨hb.rowBits_ident, hb.rowBits_chan, hb.rowBits_evt, hstate, hheartbeat, rfl, rfl⟩

/-- Settles O26: EVDEC has one transition, which accepts with event bits 7 and 2 as the flags. -/
theorem evdecLoadsRecordAndAccepts : Obligations.EvdecLoadsRecordAndAccepts := by
  unfold Obligations.EvdecLoadsRecordAndAccepts
  exact ⟨encode_ofStage .evdec, fun s => StageStep.evdec.exec_eq⟩

/-- Settles O59: each flag value has its row of R164's table. -/
theorem hostLabelsOfFlags : Obligations.HostLabelsOfFlags := by
  unfold Obligations.HostLabelsOfFlags
  exact ⟨rfl, rfl, rfl, rfl⟩

end Sys2Proof.Machine
end

section
/-! Rejections, the host and several blocks (60_exceptions.md): the label of a rejection (R171, R174), what the host observes
(R172) and drives (R189), the end of a running transaction (R188), and blocks side by side (R184). -/

namespace Sys2Proof.Machine

/-! ### The label of a rejection -/

/-- The condition of each row of R171's table on the candidate, all earlier checks being passed (R174). -/
def FirstFailingCheck (c : Candidate) : Reason → Prop
  | .shortBuffer => c.rows ≠ 1 ∨ c.nbits < 60
  | .noPreamble => (c.rows = 1 ∧ 60 ≤ c.nbits) ∧ ∀ p, ¬ MatchAt c true p
  | .truncated => (c.rows = 1 ∧ 60 ≤ c.nbits) ∧ ∃ p, FirstMatch c true p ∧ c.nbits - p - 12 < 48
  | .zeroCollision =>
    (c.rows = 1 ∧ 60 ≤ c.nbits) ∧
      ∃ p b, FirstMatch c true p ∧ 48 ≤ c.nbits - p - 12 ∧ HoldsRow c true (p + 12) b ∧ b.ident = 0 ∧ b.ckt = 0
  | .crcMismatch =>
    (c.rows = 1 ∧ 60 ≤ c.nbits) ∧
      ∃ p b, FirstMatch c true p ∧ 48 ≤ c.nbits - p - 12 ∧ HoldsRow c true (p + 12) b ∧
        ¬ (b.ident = 0 ∧ b.ckt = 0) ∧
        b.ckt ≠ crc16 (if b.chan = 0x2 ∨ b.chan = 0xA then 0x8050 else 0x8005) [b.b0, b.b1, b.b2, b.b3]

section
variable {s t : State} {r : Reason}

/-- Each rejection happens under the condition of its label. -/
theorem TransactionEnd.firstFailingCheck (h : TransactionEnd s t) (hr : t.reason = some r) :
    FirstFailingCheck s.cand r := by
  cases h with
  | shortBuffer h =>
    cases hr
    have hfail : s.cand.rows ≠ 1 ∨ s.cand.nbits < 60 := by omega
    exact hfail
  | noPreamble h hm =>
    cases hr
    exact ⟨h, hm⟩
  | truncated h p hm hroom =>
    cases hr
    exact ⟨h, p, hm, by omega⟩
  | zeroCollision h p hm hroom b hb hz =>
    cases hr
    exact ⟨h, p, b, hm, by omega, hb, hz⟩
  | crcMismatch h p hm hroom b hb hz hk =>
    cases hr
    exact ⟨h, p, b, hm, by omega, hb, hz, polyFor_eq b.chan ▸ hk⟩
  | accepted => cases hr

/-- Under the condition of a label a transaction can end with it. -/
theorem FirstFailingCheck.transactionEnd (h : FirstFailingCheck s.cand r) :
    ∃ t, TransactionEnd s t ∧ t.reason = some r := by
  cases r with
  | shortBuffer => exact ⟨_, .shortBuffer (fun hs => h.elim (· hs.1) (Nat.not_lt.2 hs.2)), rfl⟩
  | noPreamble => exact ⟨_, .noPreamble h.1 h.2, rfl⟩
  | truncated =>
    obtain ⟨hs, p, hm, hshort⟩ := h
    exact ⟨_, .truncated hs p hm (by omega), rfl⟩
  | zeroCollision =>
    obtain ⟨hs, p, b, hm, hroom, hb, hz⟩ := h
    exact ⟨_, .zeroCollision hs p hm (by omega) b hb hz, rfl⟩
  | crcMismatch =>
    obtain ⟨hs, p, b, hm, hroom, hb, hz, hk⟩ := h
    exact ⟨_, .crcMismatch hs p hm (by omega) b hb hz ((polyFor_eq b.chan).symm ▸ hk), rfl⟩

/-- A transaction has one end, so the condition of a label decides whether it ends with it. -/
theorem TransactionEnd.reason_eq_some_iff (h : TransactionEnd s t) (r : Reason) :
    t.reason = some r ↔ FirstFailingCheck s.cand r := by
  refine ⟨h.firstFailingCheck, fun hfail => ?_⟩
  obtain ⟨u, hu, hlabel⟩ := hfail.transactionEnd
  rw [h.unique hu, hlabel]

/-- A transaction ends unlabelled exactly where it accepts. -/
theorem TransactionEnd.reason_eq_none_iff (h : TransactionEnd s t) : t.reason = none ↔ t.accept = true := by
  cases h with
  | accepted => exact ⟨fun _ => rfl, fun _ => rfl⟩
  | _ => simp

end

/-- Settles O42: the run by stages ends the transaction, whose end has the label of the one condition that holds. -/
theorem rejectionLabelIsFirstFailingCheck : Obligations.RejectionLabelIsFirstFailingCheck := by
  unfold Obligations.RejectionLabelIsFirstFailingCheck
  intro s hr hs hh hg
  obtain ⟨n, t, hn, hrun, hend, hbusy⟩ := transaction_run hr hs hh hg
  have hlabel := hend.reason_eq_some_iff
  exact ⟨n, t, hn, hrun, hend.stage_eq, hbusy, hlabel .shortBuffer, hlabel .noPreamble, hlabel .truncated,
    hlabel .zeroCollision, hlabel .crcMismatch, hend.reason_eq_none_iff⟩

/-! ### The end of a running transaction -/

/-- A stage of a running transaction ends it or leaves it running, in either case not in IDLE (R138). -/
theorem StageStep.done_or_busy {s t : State} {st : Stage} (h : StageStep s st t) (hbusy : st.atRest = false) :
    t.stage = .done ∨ t.stage.atRest = false := by
  cases h with
  | start hr | hold hr => simp [hr] at hbusy
  | shortBuffer | noPreamble | truncated | zeroCollision | crcMismatch | evdec => exact .inl rfl
  | _ => exact .inr rfl

/-- A step of a running transaction whose host waits is its stage, in either grain, and under the invariant answers. -/
theorem State.Inv.step_busy {s : State} (hi : s.Inv) (hbusy : s.stage.atRest = false) (hh : s.host = []) :
    ∃ t, step s = .next t ∧ StageStep s s.stage t := by
  have hstep : step s = exec (Instr.ofStage s.stage) s :=
    step_run (hostPhase_nil hh) (fetchWord_not_starting (by simp [State.starting, hbusy])) (decode_stage _)
  obtain ⟨t, ht⟩ := Fetched.exec_next (s := s) (.inl rfl) hi
  exact ⟨t, hstep.trans ht, exec_ofStage_eq_next_iff.1 ht⟩

/-- The stages of a running transaction are those from SHAPE to EVDEC (R95). -/
theorem Stage.code_of_busy {st : Stage} (h : st.atRest = false) : 1 ≤ st.code.toNat ∧ st.code.toNat ≤ 10 := by
  cases st <;> simp [Stage.atRest, Stage.code] at h ⊢

/-- Each step ends the transaction or raises the stage's code, which is at most 10 while it runs (R188). -/
theorem State.Inv.run_to_done {s : State} (hi : s.Inv) (hbusy : s.stage.atRest = false) (hh : s.host = []) (k : Nat)
    (hk : 11 ≤ s.stage.code.toNat + k) :
    ∃ n t, n ≤ k ∧ Host.Core.run Sys2Proof.core n s = .next t ∧ t.stage = .done := by
  induction k generalizing s with
  | zero =>
    obtain ⟨_, hle⟩ := Stage.code_of_busy hbusy
    omega
  | succ k ih =>
    obtain ⟨t, hstep, hstage⟩ := hi.step_busy hbusy hh
    rcases hstage.done_or_busy hbusy with hdone | hbusy'
    · exact ⟨1, t, by omega, by rw [run_succ hstep, run_zero], hdone⟩
    · have hsucc := (hstage.advance rfl hbusy hbusy').succ
      obtain ⟨n, u, hn, hrun, hdone⟩ :=
        ih (hstage.inv hi rfl) hbusy' (hstage.samePorts.2.2.1.trans hh) (by omega)
      exact ⟨n + 1, u, by omega, by rw [run_succ hstep, hrun], hdone⟩

/-- Settles O55: SHAPE, whose code is 1, is the first stage of a transaction that runs. -/
theorem runningTransactionEnds : Obligations.RunningTransactionEnds := by
  unfold Obligations.RunningTransactionEnds
  intro s hi hbusy hh
  obtain ⟨hfirst, _⟩ := Stage.code_of_busy hbusy
  exact hi.run_to_done hbusy hh 10 (by omega)

/-! ### Blocks side by side -/

/-- What a step makes of one block of several: its next state, or the block as it is where it stops. -/
def State.stepOrStay (s : State) : State :=
  match step s with
  | .next t => t
  | .fault _ => s
  | .refused _ => s

theorem State.stepOrStay_of_next {s t : State} (h : step s = .next t) : s.stepOrStay = t := by
  simp [State.stepOrStay, h]

/-- The block that steps is the one entry of the list that changes. -/
theorem stepInstance_eq_modify (k : Nat) (bs : List State) : stepInstance k bs = bs.modify k State.stepOrStay := by
  have hstay {s : State} (hk : bs[k]? = some s) : bs.set k s = bs := by
    obtain ⟨hlt, rfl⟩ := List.getElem?_eq_some_iff.1 hk
    exact List.set_getElem_self hlt
  rw [List.modify_eq_set_getElem?]
  cases hk : bs[k]? with
  | none => simp [stepInstance, hk]
  | some s => cases hs : step s <;> simp [stepInstance, State.stepOrStay, hk, hs, hstay hk]

/-- Settles O60: a step of a block modifies its own entry, and two entries are modified in either order. -/
theorem instancesAreIndependent : Obligations.InstancesAreIndependent := by
  unfold Obligations.InstancesAreIndependent
  intro bs j k hjk
  simp only [stepInstance_eq_modify]
  refine ⟨List.getElem?_modify_ne _ _ hjk.symm, fun s t hk hs => ?_, List.modify_modify_ne _ _ _ hjk.symm⟩
  rw [List.getElem?_modify_eq, hk, ← State.stepOrStay_of_next hs]
  rfl

/-! ### The host's acts -/

/-- Settles O45: act by act, the ports it drives; presenting another candidate to a busy block is refused. -/
theorem hostActsDriveOnlyPorts : Obligations.HostActsDriveOnlyPorts := by
  unfold Obligations.HostActsDriveOnlyPorts
  intro s rest b c
  refine ⟨fun hh => ?_, fun hh => ?_, fun hh hallowed => ?_, fun hh hbusy hother => ?_⟩
  · simp [hostPhase, hh]
  · simp [hostPhase, hh]
  · simp [hostPhase, hh, hallowed]
  · have hrefused : hostPhase s = .refuse .candidateChanged := by simp [hostPhase, hh, hbusy, hother]
    simp [step, hrefused]

/-! ### What the host observes -/

/-- In DONE the host observes the result port (R43, R47). -/
theorem State.observe_of_done {s : State} (h : s.stage = .done) :
    s.observe = ⟨false, true, some (s.accept, s.record)⟩ := by
  simp [State.observe, State.busy, State.done, h, Stage.atRest]

/-- Outside DONE the port is not observed (R47). -/
theorem State.observe_result_of_not_done {s : State} (h : s.stage ≠ .done) : s.observe.result = none := by
  simp [State.observe, State.done, h]

theorem State.observe_busy_iff {s : State} : s.observe.busy = true ↔ s.stage ≠ .idle ∧ s.stage ≠ .done := by
  rw [← not_or, ← Stage.atRest_iff]
  simp [State.observe, State.busy]

theorem State.observe_done_iff {s : State} : s.observe.done = true ↔ s.stage = .done := by
  simp [State.observe, State.done]

/-- Settles O56: the port is seen in DONE alone, and the invariant says what it then shows. -/
theorem rejectionsIndistinguishable : Obligations.RejectionsIndistinguishable := by
  unfold Obligations.RejectionsIndistinguishable
  refine ⟨fun s => ⟨State.observe_busy_iff, State.observe_done_iff, fun hdone => ?_, State.observe_result_of_not_done⟩,
    fun s hi => ⟨fun hdone hrej => ?_, fun hne => ?_, fun hacc => ?_⟩⟩
  · rw [State.observe_of_done hdone]
    rfl
  · rw [State.observe_of_done hdone, hrej, hi.quiet hrej]
  · have hrej : s.accept = false := Bool.eq_false_iff.2 (mt hi.acceptedAtDone hne)
    exact ⟨hrej, hi.quiet hrej, State.observe_result_of_not_done hne⟩
  · rw [State.observe_of_done (hi.acceptedAtDone hacc), hacc, hi.recorded hacc]
    rfl

end Sys2Proof.Machine
end

section
/-! Reset and hazards (70_reset_and_hazards.md): reset at any step (R190), and a frame operation where `start` is not
sampled (R197). -/

namespace Sys2Proof.Machine

/-! ### Reset at any step -/

theorem hostPhase_reset {s : State} {rest : List HostAct} (h : s.host = .reset :: rest) :
    hostPhase s = .held { s with host := rest }.applyReset := by
  simp only [hostPhase, h]

/-- A step that the host's act holds back runs no operation (R190). -/
theorem step_held {s t : State} (h : hostPhase s = .held t) : step s = .next t := by
  simp only [step, h]

/-- Settles O2: the step ends with the host's part, which clears the block and keeps the ports and the script. -/
theorem resetAtAnyTime : Obligations.ResetAtAnyTime := by
  unfold Obligations.ResetAtAnyTime
  intro s rest hreset
  exact step_held (hostPhase_reset hreset)

/-! ### A frame operation that does not start -/

/-- `start` is sampled only at rest, and nothing starts at its level 0 (R42, R197). -/
theorem State.starting_eq_false_iff {s : State} :
    s.starting = false ↔ s.stage.atRest = false ∨ s.start = false := by
  simp only [State.starting, Bool.and_eq_false_iff]

/-- Settles O35: where no transaction starts, a frame operation and the stage's operation are both `runStage`. -/
theorem frameNotStartedLeavesBlockToItsStage : Obligations.FrameNotStartedLeavesBlockToItsStage := by
  unfold Obligations.FrameNotStartedLeavesBlockToItsStage
  intro c d e k s hquiet
  have hidle : s.starting = false := State.starting_eq_false_iff.2 hquiet
  calc exec (Instr.ofFrame c d e k) s
      = execFrame c (polyFor c) d e k s := exec_ofFrame c d e k s
    _ = runStage s := execFrame_idle hidle
    _ = exec (Instr.ofStage s.stage) s := (exec_ofStage s).symm

end Sys2Proof.Machine
end
